-- ==== Sys2Proof/Word.lean ====
section
/-! DEFINITION. Word.lean: the widths of the block's words (spec/30_encoding.md R100, spec/00_scope.md R13, R20). -/

namespace Sys2Proof

/-- A command word `CW`, 64 bits (R100). -/
abbrev Word := BitVec 64

/-- A binary32 pattern: sign bit 31, exponent bits 30:23, fraction bits 22:0 (R13). -/
abbrev F32 := BitVec 32

/-- One byte of a serialised word (R85). -/
abbrev Byte := BitVec 8

/-- A MIDI channel, 4 bits (R5, R101). -/
abbrev Channel := BitVec 4

/-- A MIDI note number, 7 bits (R5, R101). -/
abbrev Note := BitVec 7

/-- A note velocity, 7 bits (R5, R101). -/
abbrev Velocity := BitVec 7

end Sys2Proof
end

