-- ==== Sys2Proof/Syntax.lean ====
section
/-! DEFINITION. Syntax.lean: the fifteen commands of spec/opcode_table.json, one constructor a row
(spec/30_encoding.md R101 to R106). Operands carry exactly the widths of their fields. -/

namespace Sys2Proof

/-- A command with its operands (R106). -/
inductive Instr where
  /-- NOP (R298). -/
  | nop
  /-- NOTE_ON ch, note, vel (R201). -/
  | noteOn (ch : Channel) (note : Note) (vel : Velocity)
  /-- NOTE_OFF ch, note, vel (R203). -/
  | noteOff (ch : Channel) (note : Note) (vel : Velocity)
  /-- SET_ROOM f (R231). -/
  | setRoom (f : F32)
  /-- SET_DAMP f (R232). -/
  | setDamp (f : F32)
  /-- SET_WET f (R233). -/
  | setWet (f : F32)
  /-- SET_DRY f (R234). -/
  | setDry (f : F32)
  /-- SET_WIDTH f (R235). -/
  | setWidth (f : F32)
  /-- SET_THRESH f (R270). -/
  | setThresh (f : F32)
  /-- SET_ATTACK f (R271). -/
  | setAttack (f : F32)
  /-- SET_RELEASE f (R272). -/
  | setRelease (f : F32)
  /-- SET_MAKEUP f (R273). -/
  | setMakeup (f : F32)
  /-- SET_RATE u (R296). -/
  | setRate (u : BitVec 32)
  /-- CLR_ERR (R299). -/
  | clrErr
  /-- SAMPLE (R291). -/
  | sample
deriving DecidableEq, Repr

/-- The rows of the opcode map (R105). -/
inductive Op where
  | nop | noteOn | noteOff | setRoom | setDamp | setWet | setDry | setWidth
  | setThresh | setAttack | setRelease | setMakeup | setRate | clrErr | sample
deriving DecidableEq, Repr

/-- The four word formats (R101 to R104). -/
inductive Format where
  /-- Note event (R101). -/
  | n
  /-- f32 operand (R102). -/
  | f
  /-- Unsigned operand (R103). -/
  | u
  /-- No operand (R104). -/
  | z
deriving DecidableEq, Repr

/-- The row of a command (R105). -/
def Instr.op : Instr → Op
  | .nop => .nop
  | .noteOn _ _ _ => .noteOn
  | .noteOff _ _ _ => .noteOff
  | .setRoom _ => .setRoom
  | .setDamp _ => .setDamp
  | .setWet _ => .setWet
  | .setDry _ => .setDry
  | .setWidth _ => .setWidth
  | .setThresh _ => .setThresh
  | .setAttack _ => .setAttack
  | .setRelease _ => .setRelease
  | .setMakeup _ => .setMakeup
  | .setRate _ => .setRate
  | .clrErr => .clrErr
  | .sample => .sample

/-- The format of a row's word (R105). -/
def Op.format : Op → Format
  | .nop | .clrErr | .sample => .z
  | .noteOn | .noteOff => .n
  | .setRoom | .setDamp | .setWet | .setDry | .setWidth => .f
  | .setThresh | .setAttack | .setRelease | .setMakeup => .f
  | .setRate => .u

end Sys2Proof
end

