-- ==== Sys2Proof/WellFormed.lean ====
section
/-! DEFINITION. WellFormed.lean: when a command written with natural-number operands (as an assembler line has them,
spec/30_encoding.md R118) is a command of the block.

A term of `Instr` is well-formed by its type: its operands have exactly the widths of R101 to R103, and every value of
a field is legal (R106). What can be ill-formed is a command whose operands are plain numbers, checked here, and a
command word, checked by `decode` (R110). -/

namespace Sys2Proof

/-- A command as written: a mnemonic and natural-number operands (R118). -/
inductive Source where
  /-- A mnemonic alone. -/
  | z (op : Op)
  /-- A mnemonic with channel, note and velocity. -/
  | n (op : Op) (ch note vel : Nat)
  /-- A mnemonic with the bit pattern of an f32. -/
  | f (op : Op) (bits : Nat)
  /-- A mnemonic with an unsigned number. -/
  | u (op : Op) (rate : Nat)
deriving DecidableEq, Repr

/-- The mnemonic takes operands of this shape (R105), and each operand fits its field (R101 to R103). -/
def Source.wellFormed : Source → Bool
  | .z op => op.format == .z
  | .n op ch note vel =>
      op.format == .n && decide (ch < 16) && decide (note < 128) && decide (vel < 128)
  | .f op bits => op.format == .f && decide (bits < 2 ^ 32)
  | .u op rate => op.format == .u && decide (rate < 2 ^ 32)

/-- A row's command from the number of each operand field; fields the row has not are ignored. -/
def Op.command (op : Op) (ch note vel imm : Nat) : Instr :=
  match op with
  | .nop => .nop
  | .noteOn => .noteOn (BitVec.ofNat 4 ch) (BitVec.ofNat 7 note) (BitVec.ofNat 7 vel)
  | .noteOff => .noteOff (BitVec.ofNat 4 ch) (BitVec.ofNat 7 note) (BitVec.ofNat 7 vel)
  | .setRoom => .setRoom (BitVec.ofNat 32 imm)
  | .setDamp => .setDamp (BitVec.ofNat 32 imm)
  | .setWet => .setWet (BitVec.ofNat 32 imm)
  | .setDry => .setDry (BitVec.ofNat 32 imm)
  | .setWidth => .setWidth (BitVec.ofNat 32 imm)
  | .setThresh => .setThresh (BitVec.ofNat 32 imm)
  | .setAttack => .setAttack (BitVec.ofNat 32 imm)
  | .setRelease => .setRelease (BitVec.ofNat 32 imm)
  | .setMakeup => .setMakeup (BitVec.ofNat 32 imm)
  | .setRate => .setRate (BitVec.ofNat 32 imm)
  | .clrErr => .clrErr
  | .sample => .sample

/-- The command a well-formed source line stands for; an ill-formed one stands for none. -/
def Source.toInstr (l : Source) : Option Instr :=
  if l.wellFormed then
    match l with
    | .z op => some (op.command 0 0 0 0)
    | .n op ch note vel => some (op.command ch note vel 0)
    | .f op bits => some (op.command 0 0 0 bits)
    | .u op rate => some (op.command 0 0 0 rate)
  else none

end Sys2Proof
end

