-- ==== Sys2Proof/Decode.lean ====
section
/-! DEFINITION. Decode.lean: the opcode map, the decoder and the encoder (spec/30_encoding.md R100 to R114), and the
little-endian byte form of a word (spec/20_memory.md R85). -/

namespace Sys2Proof

/-- The opcode of a row (R105). -/
def Op.code : Op → BitVec 8
  | .nop => 0x00#8
  | .noteOn => 0x01#8
  | .noteOff => 0x02#8
  | .setRoom => 0x10#8
  | .setDamp => 0x11#8
  | .setWet => 0x12#8
  | .setDry => 0x13#8
  | .setWidth => 0x14#8
  | .setThresh => 0x20#8
  | .setAttack => 0x21#8
  | .setRelease => 0x22#8
  | .setMakeup => 0x23#8
  | .setRate => 0x30#8
  | .clrErr => 0x3F#8
  | .sample => 0x40#8

/-- The rows of the opcode map, in the table's order (R105). -/
def opTable : List Op :=
  [.nop, .noteOn, .noteOff, .setRoom, .setDamp, .setWet, .setDry, .setWidth,
   .setThresh, .setAttack, .setRelease, .setMakeup, .setRate, .clrErr, .sample]

/-- Whether the row needs the units to exist (column "needs CFG" of R105). -/
def Op.needsCfg : Op → Bool
  | .nop | .setRate | .clrErr => false
  | .noteOn | .noteOff | .setRoom | .setDamp | .setWet | .setDry | .setWidth => true
  | .setThresh | .setAttack | .setRelease | .setMakeup | .sample => true

/-- The bits of a format that are fixed: opcode and reserved fields (R105). -/
def Format.mask : Format → Word
  | .n => 0xFFF08080FFFFFFFF#64
  | .f => 0xFFFFFFFF00000000#64
  | .u => 0xFFFFFFFF00000000#64
  | .z => 0xFFFFFFFFFFFFFFFF#64

/-- A field's bits in a word, its lowest bit at bit `lo` (R20). -/
def placeAt (n : Nat) (lo : Nat) (x : BitVec n) : Word := x.setWidth 64 <<< lo

/-- The fixed bits of a row's words: the opcode in bits 63:56, every reserved bit 0 (R105). -/
def Op.pattern (op : Op) : Word := placeAt 8 56 op.code

/-- The row of an opcode, if it is assigned (R105, R110). -/
def opOfCode (code : BitVec 8) : Option Op := opTable.find? (fun op => op.code == code)

/-- `OPC` of a word (R100). -/
def opcField (w : Word) : BitVec 8 := w.extractLsb' 56 8

/-- `CH` of a word (R106). -/
def chField (w : Word) : Channel := w.extractLsb' 48 4

/-- `NOTE` of a word (R106). -/
def noteField (w : Word) : Note := w.extractLsb' 40 7

/-- `VEL` of a word (R106). -/
def velField (w : Word) : Velocity := w.extractLsb' 32 7

/-- `F` or `U` of a word (R106). -/
def immField (w : Word) : BitVec 32 := w.extractLsb' 0 32

/-- Why a word, or a run of bytes, is no command. -/
inductive DecodeError where
  /-- The opcode is assigned to no row (R112). -/
  | unassignedOpcode (code : BitVec 8)
  /-- A reserved field of the row's format is not zero (R112). -/
  | reservedField (op : Op)
  /-- Fewer than eight bytes: the port takes whole words only (R86). -/
  | partialWord
deriving DecidableEq, Repr

/-- The row's command with the operands of the word (R106). -/
def readOperands (op : Op) (w : Word) : Instr :=
  match op with
  | .nop => .nop
  | .noteOn => .noteOn (chField w) (noteField w) (velField w)
  | .noteOff => .noteOff (chField w) (noteField w) (velField w)
  | .setRoom => .setRoom (immField w)
  | .setDamp => .setDamp (immField w)
  | .setWet => .setWet (immField w)
  | .setDry => .setDry (immField w)
  | .setWidth => .setWidth (immField w)
  | .setThresh => .setThresh (immField w)
  | .setAttack => .setAttack (immField w)
  | .setRelease => .setRelease (immField w)
  | .setMakeup => .setMakeup (immField w)
  | .setRate => .setRate (immField w)
  | .clrErr => .clrErr
  | .sample => .sample

/-- The first two checks of R110: the opcode, then the reserved fields. The checks of CFG and of a NaN operand depend
on the state and belong to the command's meaning. -/
def decode (w : Word) : Except DecodeError Instr :=
  match opOfCode (opcField w) with
  | none => .error (.unassignedOpcode (opcField w))
  | some op =>
      if w &&& op.format.mask = op.pattern then .ok (readOperands op w)
      else .error (.reservedField op)

/-- A format-N word (R101). -/
def encodeN (op : Op) (ch : Channel) (note : Note) (vel : Velocity) : Word :=
  op.pattern ||| placeAt 4 48 ch ||| placeAt 7 40 note ||| placeAt 7 32 vel

/-- A format-F or format-U word (R102, R103). -/
def encodeImm (op : Op) (imm : BitVec 32) : Word := op.pattern ||| placeAt 32 0 imm

/-- A format-Z word (R104). -/
def encodeZ (op : Op) : Word := op.pattern

/-- The word of a command (R101 to R105). -/
def encode : Instr → Word
  | .nop => encodeZ .nop
  | .noteOn ch note vel => encodeN .noteOn ch note vel
  | .noteOff ch note vel => encodeN .noteOff ch note vel
  | .setRoom f => encodeImm .setRoom f
  | .setDamp f => encodeImm .setDamp f
  | .setWet f => encodeImm .setWet f
  | .setDry f => encodeImm .setDry f
  | .setWidth f => encodeImm .setWidth f
  | .setThresh f => encodeImm .setThresh f
  | .setAttack f => encodeImm .setAttack f
  | .setRelease f => encodeImm .setRelease f
  | .setMakeup f => encodeImm .setMakeup f
  | .setRate u => encodeImm .setRate u
  | .clrErr => encodeZ .clrErr
  | .sample => encodeZ .sample

/-- The eight bytes of a word, byte 0 holding bits 7:0 (R85). -/
def wordBytes (w : Word) : List Byte :=
  [w.extractLsb' 0 8, w.extractLsb' 8 8, w.extractLsb' 16 8, w.extractLsb' 24 8,
   w.extractLsb' 32 8, w.extractLsb' 40 8, w.extractLsb' 48 8, w.extractLsb' 56 8]

/-- The word whose first byte is `b0` (R85). -/
def wordOfBytes (b0 b1 b2 b3 b4 b5 b6 b7 : Byte) : Word :=
  placeAt 8 0 b0 ||| placeAt 8 8 b1 ||| placeAt 8 16 b2 ||| placeAt 8 24 b3 |||
    placeAt 8 32 b4 ||| placeAt 8 40 b5 ||| placeAt 8 48 b6 ||| placeAt 8 56 b7

/-- The command at the head of a run of bytes, and the bytes after it (R85, R86, R100). -/
def decodeBytes : List Byte → Except DecodeError (Instr × List Byte)
  | b0 :: b1 :: b2 :: b3 :: b4 :: b5 :: b6 :: b7 :: rest =>
      match decode (wordOfBytes b0 b1 b2 b3 b4 b5 b6 b7) with
      | .ok i => .ok (i, rest)
      | .error e => .error e
  | _ => .error .partialWord

/-- The word of a table row's bits, every bit above `nbits` zero; a command is one 64-bit word (R100). -/
def tableWord (nbits w : Nat) : Word := BitVec.ofNat 64 (w % 2 ^ nbits)

/-- The command the decoder reads from the bits `w`, laid out as eight little-endian bytes (R85). -/
def decodeTableWord (nbits w : Nat) : Option Instr :=
  match decodeBytes (wordBytes (tableWord nbits w)) with
  | .ok (i, _) => some i
  | .error _ => none

end Sys2Proof
end

