-- ==== Sys2Proof/Config.lean ====
section
/-! DEFINITION. Config.lean: what an implementation fixes and the spec leaves open (spec/00_scope.md R5 to R12, R15).

The machine runs under one configuration that nothing in Lean can evaluate (`Config.raw` has no body).
The operations of Machine/ take a `Config` as an argument, so the reference configuration REF of the spec
(Machine/Reference.lean) can be put in its place, and a statement may speak of every configuration. -/

namespace Sys2Proof

/-- The arithmetic operation that made a NaN: the free NaN value may depend on it (R14; log 3). -/
inductive FloatOp where
  | add | sub | mul | div | sqrt | floor
deriving DecidableEq, Repr

/-- The configuration record of R6 to R11 and R15. `multNoKey` is the model's own (log 8). -/
structure Config where
  /-- `Sin(x)` (R15). -/
  sin : F32 → F32
  /-- `Exp(x)` (R15). -/
  exp : F32 → F32
  /-- `Pow(a, b)` (R15). -/
  pow : F32 → F32 → F32
  /-- `P_ATTACK_RATE(sr)`; `none` is instantaneous (R7). -/
  attackRate : F32 → Option F32
  /-- `P_DECAY_RATE(sr)` (R7). -/
  decayRate : F32 → Option F32
  /-- `P_RELEASE_RATE(sr)` (R7). -/
  releaseRate : F32 → Option F32
  /-- `P_SUSTAIN_LEVEL` (R7). -/
  sustainLevel : F32
  /-- `P_BASE_RATE(sr)` (R7). -/
  baseRate : F32 → F32
  /-- `P_DETUNE[i]` (R8). -/
  detune : Vector F32 8
  /-- `P_BRIGHT[i]` (R8). -/
  bright : Vector F32 8
  /-- `P_NOTE_INC(sr)` (R8). -/
  noteInc : F32 → F32
  /-- `P_ATTACK_INTENSITY(ap)` (R8). -/
  attackIntensity : F32 → F32
  /-- `P_M[k]`, entry `k - 1` for harmonic `k` (R9). -/
  mults : Vector F32 8
  /-- `P_A4` (R9). -/
  a4 : F32
  /-- `P_A5` (R9). -/
  a5 : F32
  /-- `P_BOOST45` (R9). -/
  boost45 : F32
  /-- `P_A6` (R9). -/
  a6 : F32
  /-- `P_A7` (R9). -/
  a7 : F32
  /-- `P_A8` (R9). -/
  a8 : F32
  /-- `P_HN[j]` (R9). -/
  hn : Vector F32 3
  /-- `P_HN_AMP` (R9). -/
  hnAmp : F32
  /-- `P_THUMP_HZ` (R9). -/
  thumpHz : F32
  /-- `P_THUMP_AMP` (R9). -/
  thumpAmp : F32
  /-- `P_DET_AMP` (R9). -/
  detAmp : F32
  /-- `P_INHARM_B(n)`; `none` uses `P_M` (R9). -/
  inharmB : Note → Option F32
  /-- `P_ROOM0` (R10). -/
  room0 : F32
  /-- `P_DAMP0` (R10). -/
  damp0 : F32
  /-- `P_WET0` (R10). -/
  wet0 : F32
  /-- `P_DRY0` (R10). -/
  dry0 : F32
  /-- `P_WIDTH0` (R10). -/
  width0 : F32
  /-- `P_THRESH0` in dB (R11). -/
  thresh0 : F32
  /-- `P_ATTACK0` in seconds (R11). -/
  attack0 : F32
  /-- `P_RELEASE0` in seconds (R11). -/
  release0 : F32
  /-- `P_MAKEUP0` in dB (R11). -/
  makeup0 : F32
  /-- `P_ATT_MIN` (R11). -/
  attMin : F32
  /-- `P_ATT_MAX` (R11). -/
  attMax : F32
  /-- `P_REL_MIN` (R11). -/
  relMin : F32
  /-- `P_REL_MAX` (R11). -/
  relMax : F32
  /-- `BASE_ADDR`, the platform's placement of the three ports; no rule of the block reads it (R88, I3). -/
  baseAddr : Nat
  /-- DESIGN CHOICE, safe (log 8): the multiplier of harmonic `k + 1` of a voice that has no key, which R164
  leaves unstated. -/
  multNoKey : Fin 8 → F32
deriving Inhabited

/-- The open values of the configuration, as they come: nothing is known of them (R6). The configuration the
machine runs under is this one with the limits of R10 and R11 imposed (`Machine.actual`). -/
opaque Config.raw : Config

/-- DESIGN CHOICE, safe (log 3): the sign (bit 22) and the payload (bits 21:0) of the quiet NaN that an operation
makes from its operands. R14 and D4 ask for the IEEE default result, which is a quiet NaN, and say no more. -/
opaque Config.nanBits : FloatOp → F32 → F32 → BitVec 23

/-- `NUM_VOICES` (R5, R35). -/
def numVoices : Nat := 8

/-- `NUM_COMBS` (R5). -/
def numCombs : Nat := 4

/-- `NUM_ALLPASS` (R5). -/
def numAllpass : Nat := 2

/-- `SR_MIN` in Hz (R12). -/
def srMin : Nat := 8000

/-- `SR_MAX` in Hz (R12). -/
def srMax : Nat := 192000

end Sys2Proof
end

