-- ==== Sys2Proof/Machine/Float.lean ====
section
/-! DEFINITION. Machine/Float.lean: binary32 arithmetic (spec/00_scope.md R13 to R22).

Every finite binary32 value is a whole number of units of 2^-149. An operation takes the exact result in those units,
as a fraction of natural numbers, and rounds it once to nearest, ties to even (R14); subnormals are kept. -/

namespace Sys2Proof.Machine

/-! ### Fields and classes of a pattern -/

/-- The pattern without its sign bit. -/
def fmag (x : F32) : Nat := x.toNat % 2 ^ 31

/-- The sign bit. -/
def fsign (x : F32) : Bool := decide (2 ^ 31 ≤ x.toNat)

/-- A NaN: exponent all ones, fraction not zero (R114). -/
def isNaN (x : F32) : Bool := decide (0x7F800000 < fmag x)

/-- An infinity of either sign. -/
def isInf (x : F32) : Bool := fmag x == 0x7F800000

/-- Neither a NaN nor an infinity. -/
def isFinite (x : F32) : Bool := decide (fmag x < 0x7F800000)

/-- The magnitude of a finite value, in units of 2^-149. -/
def funits (x : F32) : Nat :=
  if fmag x / 2 ^ 23 = 0 then fmag x % 2 ^ 23
  else (2 ^ 23 + fmag x % 2 ^ 23) * 2 ^ (fmag x / 2 ^ 23 - 1)

/-- A finite value, in units of 2^-149. -/
def fint (x : F32) : Int := if fsign x then -(funits x : Int) else (funits x : Int)

/-- The pattern with the given sign and the given 31 low bits. -/
def fpack (neg : Bool) (mag : Nat) : F32 := BitVec.ofNat 32 (mag + if neg then 2 ^ 31 else 0)

/-! ### Rounding -/

/-- `n / d` rounded to the nearest natural number, ties to even. -/
def rne (n d : Nat) : Nat :=
  if 2 * (n % d) < d then n / d
  else if d < 2 * (n % d) then n / d + 1
  else n / d + n / d % 2

/-- The magnitude pattern of the binary32 value nearest to `n / d` units, ties to even; too large a value becomes
infinity (R14). `k` is the exponent of the last place: below 2^24 units the last place is one unit. -/
def roundMag (n d : Nat) : Nat :=
  let k := Nat.log2 (n / d) - 23
  min 0x7F800000 (k * 2 ^ 23 + rne n (d * 2 ^ k))

/-- The binary32 value nearest to `n / d` units with the given sign (R14). -/
def fround (neg : Bool) (n d : Nat) : F32 := fpack neg (roundMag n d)

/-- One unit is 2^-149; this many units are 1.0. -/
def unitsPerOne : Nat := 2 ^ 149

/-! ### Named values (R19) -/

/-- The binary32 value nearest to the decimal `n / d`, ties to even (R19). -/
def decimal (n d : Nat) : F32 := fround false (n * unitsPerOne) d

/-- +0.0. -/
def f0 : F32 := 0x00000000#32
/-- 0.0001. -/
def f0p0001 : F32 := 0x38D1B717#32
/-- 0.001. -/
def f0p001 : F32 := 0x3A83126F#32
/-- 0.01. -/
def f0p01 : F32 := 0x3C23D70A#32
/-- 0.1. -/
def f0p1 : F32 := 0x3DCCCCCD#32
/-- 0.15. -/
def f0p15 : F32 := 0x3E19999A#32
/-- 0.2. -/
def f0p2 : F32 := 0x3E4CCCCD#32
/-- 0.3. -/
def f0p3 : F32 := 0x3E99999A#32
/-- 0.4. -/
def f0p4 : F32 := 0x3ECCCCCD#32
/-- 0.5. -/
def f0p5 : F32 := 0x3F000000#32
/-- 0.6. -/
def f0p6 : F32 := 0x3F19999A#32
/-- 0.8. -/
def f0p8 : F32 := 0x3F4CCCCD#32
/-- 0.84. -/
def f0p84 : F32 := 0x3F570A3D#32
/-- 1.0. -/
def f1 : F32 := 0x3F800000#32
/-- 1.7. -/
def f1p7 : F32 := 0x3FD9999A#32
/-- 2.0. -/
def f2 : F32 := 0x40000000#32
/-- 2.5. -/
def f2p5 : F32 := 0x40200000#32
/-- 4.0. -/
def f4 : F32 := 0x40800000#32
/-- 5.0. -/
def f5 : F32 := 0x40A00000#32
/-- 10.0. -/
def f10 : F32 := 0x41200000#32
/-- 12.0. -/
def f12 : F32 := 0x41400000#32
/-- 20.0. -/
def f20 : F32 := 0x41A00000#32
/-- 29.7. -/
def f29p7 : F32 := 0x41ED999A#32
/-- 30.0. -/
def f30 : F32 := 0x41F00000#32
/-- 37.1. -/
def f37p1 : F32 := 0x42146666#32
/-- 41.1. -/
def f41p1 : F32 := 0x42246666#32
/-- 43.7. -/
def f43p7 : F32 := 0x422ECCCD#32
/-- 50.0. -/
def f50 : F32 := 0x42480000#32
/-- −60.0. -/
def fm60 : F32 := 0xC2700000#32
/-- 69.0. -/
def f69 : F32 := 0x428A0000#32
/-- 110.0. -/
def f110 : F32 := 0x42DC0000#32
/-- 127.0. -/
def f127 : F32 := 0x42FE0000#32
/-- 440.0. -/
def f440 : F32 := 0x43DC0000#32
/-- `TAU`, the binary32 nearest to 2π (R19). -/
def tau : F32 := 0x40C90FDB#32
/-- +∞. -/
def fInf : F32 := 0x7F800000#32

/-! ### Operations (R14) -/

/-- The quiet NaN an operation makes: its sign and payload are free. DESIGN CHOICE, safe (log 3). -/
def fnan (op : FloatOp) (a b : F32) : F32 :=
  ((Config.nanBits op a b).extractLsb' 22 1).setWidth 32 <<< 31 |||
    (0x7FC00000#32 ||| ((Config.nanBits op a b).extractLsb' 0 22).setWidth 32)

/-- `-x` flips the sign bit (R14). -/
def fneg (x : F32) : F32 := x ^^^ 0x80000000#32

/-- `abs(x)` clears the sign bit (R14). -/
def fabs (x : F32) : F32 := x &&& 0x7FFFFFFF#32

/-- The sum of two finite values, rounded once. An exact zero is +0.0 unless both operands have the sign bit set. -/
def addFinite (a b : F32) : F32 :=
  if fint a + fint b = 0 then fpack (fsign a && fsign b) 0
  else fround (decide (fint a + fint b < 0)) (fint a + fint b).natAbs 1

/-- The sum under the name of the operation that asked for it (the name matters to a NaN only). -/
def addAs (op : FloatOp) (a b : F32) : F32 :=
  if isNaN a || isNaN b then fnan op a b
  else if isInf a then (if isInf b && (fsign a != fsign b) then fnan op a b else a)
  else if isInf b then b
  else addFinite a b

/-- `a + b` (R14). -/
def fadd (a b : F32) : F32 := addAs .add a b

/-- `a - b` (R14): the sum of `a` and `-b`. -/
def fsub (a b : F32) : F32 := addAs .sub a (fneg b)

/-- `a * b` (R14). -/
def fmul (a b : F32) : F32 :=
  if isNaN a || isNaN b then fnan .mul a b
  else if isInf a || isInf b then
    (if fmag a = 0 || fmag b = 0 then fnan .mul a b
     else fpack (fsign a != fsign b) 0x7F800000)
  else fround (fsign a != fsign b) (funits a * funits b) unitsPerOne

/-- `a / b` (R14). -/
def fdiv (a b : F32) : F32 :=
  if isNaN a || isNaN b then fnan .div a b
  else if isInf a then
    (if isInf b then fnan .div a b else fpack (fsign a != fsign b) 0x7F800000)
  else if isInf b then fpack (fsign a != fsign b) 0
  else if fmag b = 0 then
    (if fmag a = 0 then fnan .div a b else fpack (fsign a != fsign b) 0x7F800000)
  else fround (fsign a != fsign b) (funits a * unitsPerOne) (funits b)

/-- The root of `n` bit by bit: `r` is the root of the bits above bit `k`. -/
def isqrtFrom (n : Nat) : Nat → Nat → Nat
  | 0, r => r
  | k + 1, r =>
      if (r + 2 ^ k) * (r + 2 ^ k) ≤ n then isqrtFrom n k (r + 2 ^ k) else isqrtFrom n k r

/-- The integer part of the square root of `n`, for `n` below 2^440. -/
def isqrt (n : Nat) : Nat := isqrtFrom n 220 0

/-- The square root of a positive finite value. In units of 2^-149 it is the root of `units * 2^149`; a quarter of a
unit and a bit for what is left below it are enough to round it right. -/
def sqrtFinite (x : F32) : F32 :=
  let n := 16 * (funits x * unitsPerOne)
  let r := isqrt n
  fround false (2 * r + if r * r = n then 0 else 1) 8

/-- `sqrt(x)` (R14): −0.0 is its own root, and a negative value has none. -/
def fsqrt (x : F32) : F32 :=
  if isNaN x then fnan .sqrt x x
  else if fmag x = 0 then x
  else if fsign x then fnan .sqrt x x
  else if isInf x then x
  else sqrtFinite x

/-- `floor(x)` (R14). An infinity and a signed zero are their own floor, as in IEEE-754. DEDUCED, unsafe (log 6). -/
def ffloor (x : F32) : F32 :=
  if isNaN x then fnan .floor x x
  else if isInf x then x
  else fround (fsign x) ((fint x / (unitsPerOne : Int)).natAbs * unitsPerOne) 1

/-! ### Comparisons (R14): false on a NaN, and the two zeros are equal -/

/-- The place of a value that is not a NaN in the order of the reals. -/
def forder (x : F32) : Int := if fsign x then -(fmag x : Int) else (fmag x : Int)

/-- `a < b`. -/
def flt (a b : F32) : Bool := !isNaN a && !isNaN b && decide (forder a < forder b)

/-- `a <= b`. -/
def fle (a b : F32) : Bool := !isNaN a && !isNaN b && decide (forder a ≤ forder b)

/-- `a > b`. -/
def fgt (a b : F32) : Bool := flt b a

/-- `a >= b`. -/
def fge (a b : F32) : Bool := fle b a

/-- `a == b`. -/
def feq (a b : F32) : Bool := !isNaN a && !isNaN b && decide (forder a = forder b)

/-! ### Functions of R16 to R20 -/

/-- `Clamp(v, lo, hi)` (R16). -/
def fclamp (v lo hi : F32) : F32 := if flt v lo then lo else if fgt v hi then hi else v

/-- `Frac(x) = x - floor(x)` (R18). -/
def frac (x : F32) : F32 := fsub x (ffloor x)

/-- `RoundHalfAway(x)` of a finite value that is not negative (R17); of another pattern the value is never used
(log 11). -/
def roundHalfAway (x : F32) : Nat := (2 * funits x + unitsPerOne) / (2 * unitsPerOne)

/-- `u32tof32(u)`: the binary32 nearest to an unsigned integer (R20). -/
def u32tof32 (u : Nat) : F32 := fround false (u * unitsPerOne) 1

end Sys2Proof.Machine
end

