-- ==== Sys2Proof/Machine/Config.lean ====
section
/-! DEFINITION. Machine/Config.lean: the limits the spec sets on the configuration (spec/00_scope.md R10, R11), and the
configuration the machine runs under. -/

namespace Sys2Proof.Machine

/-- `lo <= x <= hi`. -/
def inRange (lo hi x : F32) : Bool := fle lo x && fle x hi

/-- The limits of R10 and R11. -/
def legal (c : Config) : Bool :=
  inRange f0 f1 c.room0 && inRange f0 f1 c.damp0 && inRange f0 f1 c.wet0 && inRange f0 f1 c.dry0 &&
  inRange f0 f1 c.width0 && inRange fm60 f0 c.thresh0 && inRange f0 f30 c.makeup0 &&
  fgt c.attMin f0 && fle c.attMin c.attMax && fgt c.relMin f0 && fle c.relMin c.relMax &&
  inRange c.attMin c.attMax c.attack0 && inRange c.relMin c.relMax c.release0

/-- The value itself if it lies in the range, else the range's lower end. -/
def forceRange (lo hi x : F32) : F32 := if inRange lo hi x then x else lo

/-- The value itself if it is above 0, else 1.0. -/
def forcePositive (x : F32) : F32 := if fgt x f0 then x else f1

/-- The value itself if it is not below `lo`, else `lo`. -/
def forceAtLeast (lo x : F32) : F32 := if fle lo x then x else lo

/-- A configuration with the limits imposed; a legal one is left as it is, so every legal configuration is an answer
and nothing else is (log 5). -/
def legalize (c : Config) : Config :=
  let attMin := forcePositive c.attMin
  let attMax := forceAtLeast attMin c.attMax
  let relMin := forcePositive c.relMin
  let relMax := forceAtLeast relMin c.relMax
  { c with
    room0 := forceRange f0 f1 c.room0
    damp0 := forceRange f0 f1 c.damp0
    wet0 := forceRange f0 f1 c.wet0
    dry0 := forceRange f0 f1 c.dry0
    width0 := forceRange f0 f1 c.width0
    thresh0 := forceRange fm60 f0 c.thresh0
    makeup0 := forceRange f0 f30 c.makeup0
    attMin := attMin
    attMax := attMax
    relMin := relMin
    relMax := relMax
    attack0 := forceRange attMin attMax c.attack0
    release0 := forceRange relMin relMax c.release0 }

/-- The configuration of the machine: unknown but for the limits (R6, R10, R11). -/
def actual : Config := legalize Config.raw

end Sys2Proof.Machine
end

