-- ==== Sys2Proof/Machine/State.lean ====
section
/-! DEFINITION. Machine/State.lean: the architectural state of the block (spec/10_state.md R30 to R49,
spec/20_memory.md R80), the reasons a step can stop, and the machine after power-on (spec/70_reset_and_hazards.md
R340). -/

namespace Sys2Proof.Machine

/-- The states of an envelope (R38). -/
inductive EnvState where
  | idle | attack | decay | sustain | release
deriving DecidableEq, Repr

/-- An envelope generator (R38). A rate of `none` is instantaneous. -/
structure Envelope where
  state : EnvState
  level : F32
  sustainLevel : F32
  velocityLevel : F32
  attackRate : Option F32
  decayRate : Option F32
  releaseRate : Option F32
  sustainDecayRate : F32
deriving DecidableEq, Repr

/-- A PianoKey: the pair of R161. -/
structure Key where
  freq : F32
  note : Note
deriving DecidableEq, Repr

/-- A voice (R36). -/
structure Voice where
  active : Bool
  key : Option Key
  phaseDelta : F32
  phase : F32
  detunedPhase : F32
  notePhase : F32
  attackPhase : F32
  vnorm : F32
  env : Envelope
deriving DecidableEq, Repr

/-- The reverb parameter registers `RV` (R40). -/
structure ReverbRegs where
  roomSize : F32
  damping : F32
  wet : F32
  dry : F32
  width : F32
deriving DecidableEq, Repr

/-- The cells of a delay line, as (index, cell) pairs with rising indices and no +0.0 entry; a cell that is not listed
reads +0.0, its value after construction (R80, R84; log 10). -/
abbrev DelayMem := List (Nat × F32)

/-- A comb filter (R41). -/
structure Comb where
  len : Nat
  idx : Nat
  feedback : F32
  damp : F32
  store : F32
  buf : DelayMem
deriving DecidableEq, Repr

/-- An allpass filter (R42). -/
structure Allpass where
  len : Nat
  idx : Nat
  feedback : F32
  buf : DelayMem
deriving DecidableEq, Repr

/-- The limiter registers `LIM` (R43). -/
structure LimiterRegs where
  threshDb : F32
  threshLin : F32
  attackTime : F32
  releaseTime : F32
  attackCoef : F32
  releaseCoef : F32
  makeupDb : F32
  makeupLin : F32
  env : F32
  gr : F32
deriving DecidableEq, Repr

/-- The whole state of the block. STATUS is a view of it (`Machine.status`). -/
structure State where
  /-- `CFG` (R32). -/
  cfg : Bool
  /-- `SR` (R33). -/
  sr : BitVec 32
  /-- `SR_F` (R33). -/
  srF : F32
  /-- `OUT` (R34). -/
  out : F32
  /-- STATUS bit 1, `ERR_ILLEGAL` (R48). -/
  errIllegal : Bool
  /-- STATUS bit 2, `ERR_UNCFG` (R48). -/
  errUncfg : Bool
  /-- STATUS bit 3, `ERR_RANGE` (R48). -/
  errRange : Bool
  /-- STATUS bit 4, `ERR_NAN` (R48). -/
  errNan : Bool
  /-- `V[0]` to `V[7]` (R35, R36). -/
  voices : Vector Voice 8
  /-- `RV` (R40). -/
  rv : ReverbRegs
  /-- `COMB[0]` to `COMB[3]` (R41). -/
  combs : Vector Comb 4
  /-- `AP[0]`, `AP[1]` (R42). -/
  aps : Vector Allpass 2
  /-- `LIM` (R43). -/
  lim : LimiterRegs
  /-- THE MODEL'S OWN FIELD (log 1): the words the host has lined up for the command port; the head is next (R90). -/
  stream : List Word
deriving DecidableEq, Repr

/-- Why the machine stops. -/
inductive Fault where
  /-- Raised by SAMPLE when a delay line's index is not below its length: the cell does not exist (R82). No state that
  the block reaches has such an index. Safe (log 9). -/
  | delayLineIndex
deriving DecidableEq, Repr

/-- Why an instruction has no meaning. -/
inductive Refusal where
  /-- Raised by an arm of `exec` for a row of the opcode table that has no meaning yet; no arm is left so. Safe. -/
  | notModelled (mnemonic : String)
deriving DecidableEq, Repr

/-- An envelope before the first construction: no value of the spec's (R340). DESIGN CHOICE, unsafe (log 2). -/
def Envelope.unbuilt : Envelope :=
  { state := .idle, level := f0, sustainLevel := f0, velocityLevel := f0, attackRate := none,
    decayRate := none, releaseRate := none, sustainDecayRate := f0 }

/-- A voice before the first construction. DESIGN CHOICE, unsafe (log 2). -/
def Voice.unbuilt : Voice :=
  { active := false, key := none, phaseDelta := f0, phase := f0, detunedPhase := f0,
    notePhase := f0, attackPhase := f0, vnorm := f0, env := Envelope.unbuilt }

/-- A comb before the first construction: one cell, the literals of R41. DESIGN CHOICE, unsafe (log 2). -/
def Comb.unbuilt : Comb :=
  { len := 1, idx := 0, feedback := f0p84, damp := f0p2, store := f0, buf := [] }

/-- An allpass before the first construction: one cell, the literal of R42. DESIGN CHOICE, unsafe (log 2). -/
def Allpass.unbuilt : Allpass := { len := 1, idx := 0, feedback := f0p5, buf := [] }

/-- The limiter before the first construction. DESIGN CHOICE, unsafe (log 2). -/
def LimiterRegs.unbuilt : LimiterRegs :=
  { threshDb := f0, threshLin := f1, attackTime := f0, releaseTime := f0, attackCoef := f0,
    releaseCoef := f0, makeupDb := f0, makeupLin := f1, env := f0, gr := f1 }

/-- The machine after power-on (R340); the units' values are the model's (log 2), and no word is lined up (log 1). -/
def State.reset : State :=
  { cfg := false, sr := 0#32, srF := f0, out := f0,
    errIllegal := false, errUncfg := false, errRange := false, errNan := false,
    voices := Vector.replicate 8 Voice.unbuilt,
    rv := { roomSize := f0, damping := f0, wet := f0, dry := f0, width := f0 },
    combs := Vector.replicate 4 Comb.unbuilt,
    aps := Vector.replicate 2 Allpass.unbuilt,
    lim := LimiterRegs.unbuilt,
    stream := [] }

end Sys2Proof.Machine
end

