-- ==== Sys2Proof/Machine/Flags.lean ====
section
/-! DEFINITION. Machine/Flags.lean: the STATUS register (spec/10_state.md R48) and the error flags
(spec/60_exceptions.md R312). -/

namespace Sys2Proof.Machine

/-- The four error conditions (R312). -/
inductive BlockError where
  /-- ErrIllegal (R112). -/
  | illegal
  /-- ErrUncfg (R313). -/
  | uncfg
  /-- ErrRange (R297). -/
  | range
  /-- ErrNaN (R114). -/
  | nan
deriving DecidableEq, Repr

/-- The code of an error: the STATUS bit it sets (R312). -/
def errorCode : BlockError → Nat
  | .illegal => 1
  | .uncfg => 2
  | .range => 3
  | .nan => 4

/-- A one-bit field of STATUS at bit `i`. -/
def statusBit (b : Bool) (i : Nat) : BitVec 32 := (BitVec.ofBool b).setWidth 32 <<< i

/-- `ACTIVE`: bit `8 + i` is `V[i].active`, and all are 0 while `CFG = 0` (R48). -/
def activeField (s : State) : BitVec 32 :=
  statusBit (s.cfg && s.voices[0].active) 8 ||| statusBit (s.cfg && s.voices[1].active) 9 |||
  statusBit (s.cfg && s.voices[2].active) 10 ||| statusBit (s.cfg && s.voices[3].active) 11 |||
  statusBit (s.cfg && s.voices[4].active) 12 ||| statusBit (s.cfg && s.voices[5].active) 13 |||
  statusBit (s.cfg && s.voices[6].active) 14 ||| statusBit (s.cfg && s.voices[7].active) 15

/-- The STATUS register as the host reads it; the reserved bits read 0 (R48, I13). -/
def status (s : State) : BitVec 32 :=
  statusBit s.cfg 0 ||| statusBit s.errIllegal 1 ||| statusBit s.errUncfg 2 |||
  statusBit s.errRange 3 ||| statusBit s.errNan 4 ||| activeField s

/-- The STATUS bit of an error is set to 1; every other flag stays (R311, R312). -/
def setFlag (e : BlockError) (s : State) : State :=
  match e with
  | .illegal => { s with errIllegal := true }
  | .uncfg => { s with errUncfg := true }
  | .range => { s with errRange := true }
  | .nan => { s with errNan := true }

/-- Whether the STATUS bit of an error is set. -/
def getFlag (e : BlockError) (s : State) : Bool :=
  match e with
  | .illegal => s.errIllegal
  | .uncfg => s.errUncfg
  | .range => s.errRange
  | .nan => s.errNan

/-- The four error flags cleared (R299). -/
def clearFlags (s : State) : State :=
  { s with errIllegal := false, errUncfg := false, errRange := false, errNan := false }

end Sys2Proof.Machine
end

