-- ==== Sys2Proof/Machine/Ops.lean ====
section
/-! DEFINITION. Machine/Ops.lean: delay-line memory (spec/20_memory.md R80 to R84), raising an error
(spec/60_exceptions.md R311), and the three ports (R330). -/

namespace Sys2Proof.Machine

/-- What a command answers. -/
abbrev Result := Host.Outcome State Fault Refusal

/-! ### Delay lines -/

/-- What a cell that is not listed holds: +0.0, as every cell after construction (R84). -/
def blankCell : F32 := f0

/-- `MemRead(L, a)` (R82). -/
def memRead : DelayMem → Nat → F32
  | [], _ => blankCell
  | (k, v) :: m, a => if k = a then v else memRead m a

/-- `MemWrite(L, a, v)` (R83): all 32 bits; a cell written +0.0 is not listed. -/
def memWrite : DelayMem → Nat → F32 → DelayMem
  | [], a, v => if v = blankCell then [] else [(a, v)]
  | (k, u) :: m, a, v =>
      if a < k then (if v = blankCell then (k, u) :: m else (a, v) :: (k, u) :: m)
      else if a = k then (if v = blankCell then m else (a, v) :: m)
      else (k, u) :: memWrite m a v

/-- The canonical form, for cells from index `lo` on: indices rise strictly, none is below `lo`, no cell is +0.0. -/
def memWfFrom : Nat → DelayMem → Bool
  | _, [] => true
  | lo, (k, v) :: m => decide (lo ≤ k) && decide (v ≠ blankCell) && memWfFrom (k + 1) m

/-- The canonical form of a delay-line memory. -/
def memWf (m : DelayMem) : Bool := memWfFrom 0 m

/-- Every listed cell lies in a line of `len` cells (R80). -/
def memBelow (len : Nat) (m : DelayMem) : Bool := m.all (fun c => decide (c.1 < len))

/-- The next index of a circular line (R224, R225). -/
def nextIdx (idx len : Nat) : Nat := (idx + 1) % len

/-- Every line's index names a cell of the line (R82). -/
def linesInRange (s : State) : Bool :=
  decide ((∀ k : Fin 4, s.combs[k].idx < s.combs[k].len) ∧
    (∀ a : Fin 2, s.aps[a].idx < s.aps[a].len))

/-! ### Errors: the block's whole exception mechanism

There is no trap, no saved state and no handler (R318), and so no return from one (R319). -/

/-- `raise E(info)` (R311): the flag of `E` is set, nothing else changes, and the command ends; `info` is kept nowhere
(D50). -/
def raiseError (e : BlockError) (s : State) : Result := .next (setFlag e s)

/-! ### The ports (R330) -/

/-- The next word on `CMD`, and the block with it taken; `none` when the host has lined up nothing (log 1). -/
def fetchWord (s : State) : Option (Word × State) :=
  match s.stream with
  | [] => none
  | w :: rest => some (w, { s with stream := rest })

/-- The host lines up one more word for `CMD`, after those already lined up (R90; log 1). -/
def presentWord (w : Word) (s : State) : State := { s with stream := s.stream ++ [w] }

/-- The host reads `OUT`: a value, and no change of the block (R34, R87). -/
def readOut (s : State) : F32 := s.out

/-- The host reads `STATUS`: a value, and no change of the block (R48, R87). -/
def readStatus (s : State) : BitVec 32 := status s

/-- The four bytes of a 32-bit word on a read port, byte 0 holding bits 7:0 (R85). -/
def portBytes (x : BitVec 32) : List Byte :=
  [x.extractLsb' 0 8, x.extractLsb' 8 8, x.extractLsb' 16 8, x.extractLsb' 24 8]

/-- The 32-bit word whose bytes were read, byte 0 first; whole words only (R85, R86). -/
def portWord : List Byte → Option (BitVec 32)
  | [b0, b1, b2, b3] =>
      some (b0.setWidth 32 ||| b1.setWidth 32 <<< 8 ||| b2.setWidth 32 <<< 16 ||| b3.setWidth 32 <<< 24)
  | _ => none

/-- `OUT` serialised to bytes (R85). -/
def outBytes (s : State) : List Byte := portBytes (readOut s)

/-- `STATUS` serialised to bytes (R85). -/
def statusBytes (s : State) : List Byte := portBytes (readStatus s)

end Sys2Proof.Machine
end

