-- ==== Sys2Proof/Machine/Operands.lean ====
section
/-! DEFINITION. Machine/Operands.lean: the operand checks that precede a command's rule (spec/30_encoding.md R110)
and the conversions of its operands (R106). -/

namespace Sys2Proof.Machine

/-- The third check of R110: a command that needs the units, while there are none, raises ErrUncfg (R313). -/
def withUnits (s : State) (run : State → Result) : Result :=
  if s.cfg then run s else raiseError .uncfg s

/-- The third and the fourth check of R110, for a format-F command: then a NaN operand raises ErrNaN (R114), and
any other operand reaches the setter. -/
def withF32 (f : F32) (s : State) (run : State → State) : Result :=
  withUnits s fun s => if isNaN f then raiseError .nan s else .next (run s)

/-- A weight operand clamped to [0, 1] (R231 to R235). -/
def clampUnit (f : F32) : F32 := fclamp f f0 f1

/-- `u32tof32` of a note number, exact (R303). -/
def noteToF32 (n : Note) : F32 := u32tof32 n.toNat

/-- `u32tof32` of a velocity, exact (R303). -/
def velToF32 (v : Velocity) : F32 := u32tof32 v.toNat

end Sys2Proof.Machine
end

