-- ==== Sys2Proof/Machine/Limiter.lean ====
section
/-! DEFINITION. Machine/Limiter.lean: the peak follower and the feed-forward limiter, and its four setters
(spec/44_limiter.md R260 to R273). -/

namespace Sys2Proof.Machine

/-- `DbToLin(db)` (R262). -/
def dbToLin (c : Config) (db : F32) : F32 := c.pow f10 (fdiv db f20)

/-- `Coef(t)` at sample rate `srF` (R263). -/
def coef (c : Config) (srF t : F32) : F32 := c.exp (fdiv (fneg f1) (fmul srF t))

/-- The follower's coefficient: attack only when the magnitude is strictly above the envelope (R266). -/
def followCoef (lim : LimiterRegs) (x : F32) : F32 :=
  if fgt (fabs x) lim.env then lim.attackCoef else lim.releaseCoef

/-- The follower's envelope after the sample (R266). -/
def followEnv (lim : LimiterRegs) (x : F32) : F32 :=
  fadd (fmul (followCoef lim x) lim.env) (fmul (fsub f1 (followCoef lim x)) (fabs x))

/-- The gain for an updated envelope (R266). -/
def gainFor (threshLin env : F32) : F32 := if fgt env threshLin then fdiv threshLin env else f1

/-- The limiter after one sample (R266). -/
def limiterAfter (lim : LimiterRegs) (x : F32) : LimiterRegs :=
  { lim with env := followEnv lim x, gr := gainFor lim.threshLin (followEnv lim x) }

/-- What `LimiterProcess(x)` returns (R266). -/
def limiterOut (lim : LimiterRegs) (x : F32) : F32 :=
  fmul (fmul x (limiterAfter lim x).gr) lim.makeupLin

/-- SET_THRESH's effect (R270). -/
def setThresh (c : Config) (f : F32) (s : State) : State :=
  { s with lim := { s.lim with
      threshDb := fclamp f fm60 f0, threshLin := dbToLin c (fclamp f fm60 f0) } }

/-- SET_ATTACK's effect (R271). -/
def setAttack (c : Config) (f : F32) (s : State) : State :=
  { s with lim := { s.lim with
      attackTime := fclamp f c.attMin c.attMax
      attackCoef := coef c s.srF (fclamp f c.attMin c.attMax) } }

/-- SET_RELEASE's effect (R272). -/
def setRelease (c : Config) (f : F32) (s : State) : State :=
  { s with lim := { s.lim with
      releaseTime := fclamp f c.relMin c.relMax
      releaseCoef := coef c s.srF (fclamp f c.relMin c.relMax) } }

/-- SET_MAKEUP's effect (R273). -/
def setMakeup (c : Config) (f : F32) (s : State) : State :=
  { s with lim := { s.lim with
      makeupDb := fclamp f f0 f30, makeupLin := dbToLin c (fclamp f f0 f30) } }

/-- SET_THRESH (R270). -/
def execSetThresh (f : F32) (s : State) : Result := withF32 f s (setThresh actual f)

/-- SET_ATTACK (R271). -/
def execSetAttack (f : F32) (s : State) : Result := withF32 f s (setAttack actual f)

/-- SET_RELEASE (R272). -/
def execSetRelease (f : F32) (s : State) : Result := withF32 f s (setRelease actual f)

/-- SET_MAKEUP (R273). -/
def execSetMakeup (f : F32) (s : State) : Result := withF32 f s (setMakeup actual f)

end Sys2Proof.Machine
end

