-- ==== Sys2Proof/Machine/Reverb.lean ====
section
/-! DEFINITION. Machine/Reverb.lean: the comb and allpass filters, the reverb, and its five setters
(spec/43_reverb.md R220 to R235). -/

namespace Sys2Proof.Machine

/-- `DelayLen(ms, SR_F)` (R221). -/
def delayLen (ms srF : F32) : Nat := roundHalfAway (fmul (fmul ms f0p001) srF)

/-- The comb delay times in milliseconds (R5, R41). -/
def combMs : Vector F32 4 := #v[f29p7, f37p1, f41p1, f43p7]

/-- The allpass delay times in milliseconds (R5, R42). -/
def apMs : Vector F32 2 := #v[f5, f1p7]

/-- What a comb's loop stores for the cell it reads: one-pole damping (R224). -/
def combStore (k : Comb) : F32 :=
  fadd (fmul (memRead k.buf k.idx) (fsub f1 k.damp)) (fmul k.store k.damp)

/-- `CombProcess(C, x)` (R224): the comb after one sample, and its output, the cell read first. -/
def combProcess (k : Comb) (x : F32) : Comb × F32 :=
  ({ k with
      store := combStore k
      buf := memWrite k.buf k.idx (fadd x (fmul (combStore k) k.feedback))
      idx := nextIdx k.idx k.len },
    memRead k.buf k.idx)

/-- `AllpassProcess(A, x)` (R225): the allpass after one sample, and its output. -/
def allpassProcess (a : Allpass) (x : F32) : Allpass × F32 :=
  ({ a with
      buf := memWrite a.buf a.idx (fadd x (fmul (memRead a.buf a.idx) a.feedback))
      idx := nextIdx a.idx a.len },
    fadd (fmul (fneg x) a.feedback) (memRead a.buf a.idx))

/-- The combs' outputs summed from +0.0 in index order and divided by their count (R226). -/
def combMean (combs : Vector Comb 4) (x : F32) : F32 :=
  fdiv (fadd (fadd (fadd (fadd f0 (combProcess combs[0] x).2) (combProcess combs[1] x).2)
    (combProcess combs[2] x).2) (combProcess combs[3] x).2) f4

/-- The output of the first allpass, the 5.0 ms one (R226). -/
def firstAllpassOut (combs : Vector Comb 4) (aps : Vector Allpass 2) (x : F32) : F32 :=
  (allpassProcess aps[0] (combMean combs x)).2

/-- The output of the second allpass, the 1.7 ms one (R226). -/
def secondAllpassOut (combs : Vector Comb 4) (aps : Vector Allpass 2) (x : F32) : F32 :=
  (allpassProcess aps[1] (firstAllpassOut combs aps x)).2

/-- The combs after one sample of input `x` (R226). -/
def combsAfter (combs : Vector Comb 4) (x : F32) : Vector Comb 4 :=
  Vector.ofFn fun k : Fin 4 => (combProcess combs[k] x).1

/-- The allpasses after one sample of reverb input `x` (R226). -/
def apsAfter (combs : Vector Comb 4) (aps : Vector Allpass 2) (x : F32) : Vector Allpass 2 :=
  #v[(allpassProcess aps[0] (combMean combs x)).1,
     (allpassProcess aps[1] (firstAllpassOut combs aps x)).1]

/-- What `ReverbProcess(x)` returns: the dry and the wet part mixed (R226). -/
def reverbOut (rv : ReverbRegs) (combs : Vector Comb 4) (aps : Vector Allpass 2) (x : F32) : F32 :=
  fadd (fmul rv.dry x) (fmul rv.wet (secondAllpassOut combs aps x))

/-- `RecomputeCombs()` (R230): both fields of all four combs. -/
def recomputeCombs (s : State) : State :=
  { s with combs := Vector.ofFn fun k : Fin 4 =>
      { s.combs[k] with feedback := fadd (fmul s.rv.roomSize f0p6) f0p4, damp := s.rv.damping } }

/-- SET_ROOM's effect (R231). -/
def setRoom (f : F32) (s : State) : State :=
  recomputeCombs { s with rv := { s.rv with roomSize := clampUnit f } }

/-- SET_DAMP's effect (R232). -/
def setDamp (f : F32) (s : State) : State :=
  recomputeCombs { s with rv := { s.rv with damping := clampUnit f } }

/-- SET_ROOM (R231). -/
def execSetRoom (f : F32) (s : State) : Result := withF32 f s (setRoom f)

/-- SET_DAMP (R232). -/
def execSetDamp (f : F32) (s : State) : Result := withF32 f s (setDamp f)

/-- SET_WET (R233). -/
def execSetWet (f : F32) (s : State) : Result :=
  withF32 f s fun s => { s with rv := { s.rv with wet := clampUnit f } }

/-- SET_DRY (R234). -/
def execSetDry (f : F32) (s : State) : Result :=
  withF32 f s fun s => { s with rv := { s.rv with dry := clampUnit f } }

/-- SET_WIDTH (R235). -/
def execSetWidth (f : F32) (s : State) : Result :=
  withF32 f s fun s => { s with rv := { s.rv with width := clampUnit f } }

end Sys2Proof.Machine
end

