-- ==== Sys2Proof/Machine/Envelope.lean ====
section
/-! DEFINITION. Machine/Envelope.lean: the ADSR envelope generator with piano decay (spec/40_envelope.md R130 to
R141). -/

namespace Sys2Proof.Machine

/-- The number of an envelope state, where one is needed (R38). -/
def envStateCode : EnvState → Nat
  | .idle => 0
  | .attack => 1
  | .decay => 2
  | .sustain => 3
  | .release => 4

/-- `is_active(env)` (R39). -/
def envActive (e : Envelope) : Bool := decide (e.state ≠ .idle)

/-- `EnvTrigger` (R133): the level is kept (legato). -/
def envTrigger (e : Envelope) : Envelope := { e with state := .attack }

/-- `EnvRelease` (R134). -/
def envRelease (e : Envelope) : Envelope := { e with state := .release }

/-- The Attack arm (R137). -/
def envAttack (e : Envelope) : Envelope :=
  match e.attackRate with
  | some r =>
      if fge (fadd e.level r) f1 then { e with level := f1, state := .decay }
      else { e with level := fadd e.level r }
  | none => { e with level := f1, state := .decay }

/-- The Decay arm (R138): no clamp on the crossing step. -/
def envDecay (e : Envelope) : Envelope :=
  match e.decayRate with
  | some r =>
      if fle (fsub e.level r) e.sustainLevel then { e with level := fsub e.level r, state := .sustain }
      else { e with level := fsub e.level r }
  | none => { e with level := e.sustainLevel, state := .sustain }

/-- The Sustain arm, piano decay (R139): no clamp at 0. -/
def envSustain (e : Envelope) : Envelope :=
  if fle (fsub e.level e.sustainDecayRate) f0 then
    { e with level := fsub e.level e.sustainDecayRate, state := .idle }
  else { e with level := fsub e.level e.sustainDecayRate }

/-- The level after one Release step of coefficient `r`; the fast factor is chosen by the level before it (R140). -/
def releaseStepLevel (r level : F32) : F32 :=
  fsub level (fmul (fmul r level) (if fgt level f0p1 then f2p5 else f1))

/-- The Release arm (R140). -/
def envReleaseStep (e : Envelope) : Envelope :=
  match e.releaseRate with
  | some r =>
      if fle (releaseStepLevel r e.level) f0p0001 then
        { e with level := releaseStepLevel r e.level, state := .idle }
      else { e with level := releaseStepLevel r e.level }
  | none => { e with level := f0, state := .idle }

/-- The arm of the envelope's state (R135); the Idle arm changes nothing (R136). -/
def envAdvance (e : Envelope) : Envelope :=
  match e.state with
  | .idle => e
  | .attack => envAttack e
  | .decay => envDecay e
  | .sustain => envSustain e
  | .release => envReleaseStep e

/-- The output of an envelope (R141). -/
def envOutput (e : Envelope) : F32 := fmul e.level e.velocityLevel

/-- `EnvProcess` (R135): the envelope after one sample, and its output after the update. -/
def envProcess (e : Envelope) : Envelope × F32 := (envAdvance e, envOutput (envAdvance e))

end Sys2Proof.Machine
end

