-- ==== Sys2Proof/Machine/Voice.lean ====
section
/-! DEFINITION. Machine/Voice.lean: the phase accumulators and the oscillator bank of one voice
(spec/41_oscillator.md R160 to R173). -/

namespace Sys2Proof.Machine

/-- `KeyFreq(n)` (R161). -/
def keyFreq (c : Config) (n : Note) : F32 :=
  fmul f440 (c.pow f2 (fdiv (fsub (noteToF32 n) f69) f12))

/-- The PianoKey of a note (R161). -/
def pianoKey (c : Config) (n : Note) : Key := { freq := keyFreq c n, note := n }

/-- `InharmMult(B, k)` (R163). -/
def inharmMult (b : F32) (k : Nat) : F32 :=
  if k = 1 then f1
  else fmul (u32tof32 k) (fsqrt (fadd f1 (fmul b (fmul (u32tof32 k) (u32tof32 k)))))

/-- `partial_frequency(f0, k)` for inharmonicity coefficient `b`, the roundings in the order of R163. No command uses
it: the oscillators take the multiplier alone. -/
def partialFrequency (b freq : F32) (k : Nat) : F32 := fmul freq (inharmMult b k)

/-- `Mult(V, k)` for harmonic `k = j + 1` (R164); a voice without a key takes a free value (log 8). -/
def mult (c : Config) (v : Voice) (j : Fin 8) : F32 :=
  match v.key with
  | none => c.multNoKey j
  | some key =>
      match c.inharmB key.note with
      | none => c.mults[j]
      | some b => inharmMult b (j.val + 1)

/-- The normalised velocity (R165). -/
def vnormOf (vel : Velocity) : F32 := fdiv (velToF32 vel) f127

/-- The per-note Sustain decrement (R165). -/
def sustainDecayOf (c : Config) (srF f vnorm : F32) : F32 :=
  fmul (fmul (c.baseRate srF) (fsqrt (fdiv f f110))) (fsub f1 (fmul f0p3 vnorm))

/-- `VoiceNoteOn(V, n, vel)` (R165): the phases and the level are kept. -/
def voiceNoteOn (c : Config) (srF : F32) (n : Note) (vel : Velocity) (v : Voice) : Voice :=
  { v with
    key := some (pianoKey c n)
    phaseDelta := fdiv (keyFreq c n) srF
    vnorm := vnormOf vel
    attackPhase := f0
    notePhase := f0
    active := true
    env := envTrigger { v.env with
      velocityLevel := c.pow (vnormOf vel) f0p8
      sustainDecayRate := sustainDecayOf c srF (keyFreq c n) (vnormOf vel) } }

/-- `VoiceNoteOff(V)` (R166): the voice stays active. -/
def voiceNoteOff (v : Voice) : Voice := { v with env := envRelease v.env }

/-- `AdvancePhases(V[i])` (R168). -/
def advancePhases (c : Config) (srF : F32) (i : Fin 8) (v : Voice) : Voice :=
  { v with
    phase := frac (fadd v.phase v.phaseDelta)
    detunedPhase := frac (fadd v.detunedPhase (fmul v.phaseDelta c.detune[i]))
    notePhase := fadd v.notePhase (c.noteInc srF) }

/-- The attack tracker after one sample (R169). -/
def attackStep (srF ap : F32) : F32 := fadd ap (fmul (fdiv f50 srF) (fsub f1 ap))

/-- `AdvanceAttack(V)`: the tracker moves (R169). -/
def advanceAttack (srF : F32) (v : Voice) : Voice :=
  { v with attackPhase := attackStep srF v.attackPhase }

/-- The attack intensity `AdvanceAttack` returns, taken from the moved tracker (R169). -/
def attackIntensity (c : Config) (v : Voice) : F32 := c.attackIntensity v.attackPhase

/-- A sine of the voice's fundamental phase times `m` (R170, R172). -/
def phaseSin (c : Config) (v : Voice) (m : F32) : F32 := c.sin (fmul (fmul tau v.phase) m)

/-- `H(k)` for harmonic `k = j + 1` (R170). -/
def harmonic (c : Config) (v : Voice) (j : Fin 8) : F32 := phaseSin c v (mult c v j)

/-- The three fixed harmonics (R170). -/
def bankFixed (c : Config) (v : Voice) : F32 :=
  fadd (fadd (fmul f0p6 (harmonic c v 0)) (fmul f0p4 (harmonic c v 1))) (fmul f0p15 (harmonic c v 2))

/-- The brightness harmonics added (R171). -/
def bankBright (c : Config) (i : Fin 8) (v : Voice) (ai s : F32) : F32 :=
  fadd s (fmul (fmul c.bright[i] (fadd (fmul c.a4 (harmonic c v 3)) (fmul c.a5 (harmonic c v 4))))
    (fadd f1 (fmul c.boost45 ai)))

/-- The product of the three hammer-noise oscillators (R172). -/
def hammerNoise (c : Config) (v : Voice) : F32 :=
  fmul (fmul (phaseSin c v c.hn[0]) (phaseSin c v c.hn[1])) (phaseSin c v c.hn[2])

/-- The low-frequency thump (R172). -/
def thump (c : Config) (v : Voice) : F32 := c.sin (fmul (fmul tau c.thumpHz) v.notePhase)

/-- The transient terms added, while the attack intensity is above 0.01 (R172). -/
def bankTransient (c : Config) (v : Voice) (ai s : F32) : F32 :=
  if fgt ai f0p01 then
    let s1 := fadd s (fmul ai (fadd (fadd (fmul c.a6 (harmonic c v 5)) (fmul c.a7 (harmonic c v 6)))
      (fmul c.a8 (harmonic c v 7))))
    let s2 := fadd s1 (fmul (fmul (fmul c.hnAmp ai) v.vnorm) (hammerNoise c v))
    fadd s2 (fmul (fmul (fmul c.thumpAmp ai) v.vnorm) (thump c v))
  else s

/-- The detuned sine added (R173). -/
def bankDetuned (c : Config) (v : Voice) (s : F32) : F32 :=
  fadd s (fmul c.detAmp (c.sin (fmul tau v.detunedPhase)))

/-- `Bank(V[i], ai)` (R170 to R173). -/
def bank (c : Config) (i : Fin 8) (v : Voice) (ai : F32) : F32 :=
  bankDetuned c v (bankTransient c v ai (bankBright c i v ai (bankFixed c v)))

/-- The voice after its phases and its tracker have moved (R167, R168, R169). -/
def voiceAdvance (c : Config) (srF : F32) (i : Fin 8) (v : Voice) : Voice :=
  advanceAttack srF (advancePhases c srF i v)

/-- The output of a sounding voice whose phases have moved, for envelope value `e` (R167, R173). -/
def voiceOutput (c : Config) (i : Fin 8) (v : Voice) (e : F32) : F32 :=
  fmul (fmul (bank c i v (attackIntensity c v)) f0p3) e

/-- `VoiceProcess(V[i])` (R167): the voice after one sample, and its output. -/
def voiceProcess (c : Config) (srF : F32) (i : Fin 8) (v : Voice) : Voice × F32 :=
  if !v.active && !envActive v.env then (v, f0)
  else
    let r := envProcess v.env
    if !envActive r.1 then ({ v with env := r.1, active := false }, f0)
    else
      let v' := voiceAdvance c srF i { v with env := r.1 }
      (v', voiceOutput c i v' r.2)

end Sys2Proof.Machine
end

