-- ==== Sys2Proof/Machine/VoicePool.lean ====
section
/-! DEFINITION. Machine/VoicePool.lean: voice allocation, stealing, and the two note commands
(spec/42_voice_pool.md R200 to R203). -/

namespace Sys2Proof.Machine

/-- The voice numbers in index order. -/
def voiceIndices : List (Fin 8) := [0, 1, 2, 3, 4, 5, 6, 7]

/-- The least inactive voice, if there is one (R201). -/
def firstFree (vs : Vector Voice 8) : Option (Fin 8) :=
  voiceIndices.find? (fun i => !vs[i].active)

/-- One candidate of the scan of R202: it replaces the best so far only with a strictly lower level. -/
def stealStep (vs : Vector Voice 8) (inClass : EnvState → Bool) (best : Option (Fin 8)) (i : Fin 8) :
    Option (Fin 8) :=
  if inClass vs[i].env.state then
    match best with
    | none => some i
    | some b => if flt vs[i].env.level vs[b].env.level then some i else some b
  else best

/-- The first voice of lowest level in a class (R202). -/
def stealClass (vs : Vector Voice 8) (inClass : EnvState → Bool) : Option (Fin 8) :=
  voiceIndices.foldl (stealStep vs inClass) none

/-- `Steal()` (R202): Release before Sustain before any voice. The last class holds every voice, so its scan
always answers; `0` stands for an answer that is not needed. -/
def steal (vs : Vector Voice 8) : Fin 8 :=
  match stealClass vs (fun st => decide (st = .release)) with
  | some j => j
  | none =>
      match stealClass vs (fun st => decide (st = .sustain)) with
      | some j => j
      | none => (stealClass vs (fun _ => true)).getD 0

/-- The voice a NOTE_ON takes (R201). -/
def allocate (vs : Vector Voice 8) : Fin 8 :=
  match firstFree vs with
  | some j => j
  | none => steal vs

/-- NOTE_ON's effect (R201). -/
def noteOn (c : Config) (n : Note) (vel : Velocity) (s : State) : State :=
  { s with voices := s.voices.set (allocate s.voices) (voiceNoteOn c s.srF n vel s.voices[allocate s.voices]) }

/-- Whether a voice's stored key is the note (R203). -/
def keyMatches (n : Note) (v : Voice) : Bool :=
  match v.key with
  | none => false
  | some key => decide (key.note = n)

/-- One voice under a NOTE_OFF (R203). -/
def noteOffVoice (n : Note) (v : Voice) : Voice := if keyMatches n v then voiceNoteOff v else v

/-- NOTE_OFF's effect: every matching voice is released (R203). -/
def noteOff (n : Note) (s : State) : State :=
  { s with voices := Vector.ofFn fun i : Fin 8 => noteOffVoice n s.voices[i] }

/-- NOTE_ON (R201); the channel is ignored (R115). -/
def execNoteOn (_ch : Channel) (note : Note) (vel : Velocity) (s : State) : Result :=
  withUnits s fun s => .next (noteOn actual note vel s)

/-- NOTE_OFF (R203); the channel and the velocity are ignored (R115). -/
def execNoteOff (_ch : Channel) (note : Note) (_vel : Velocity) (s : State) : Result :=
  withUnits s fun s => .next (noteOff note s)

end Sys2Proof.Machine
end

