-- ==== Sys2Proof/Machine/System.lean ====
section
/-! DEFINITION. Machine/System.lean: construction, the sample rate, the frame, NOP and CLR_ERR
(spec/45_chain_and_system.md R290 to R299). -/

namespace Sys2Proof.Machine

/-! ### Construction (R295, spec/70_reset_and_hazards.md R341) -/

/-- An envelope after construction at rate `srF` (R38). -/
def builtEnvelope (c : Config) (srF : F32) : Envelope :=
  { state := .idle, level := f0, sustainLevel := c.sustainLevel, velocityLevel := f0,
    attackRate := c.attackRate srF, decayRate := c.decayRate srF,
    releaseRate := c.releaseRate srF, sustainDecayRate := f0 }

/-- A voice after construction (R36). -/
def builtVoice (c : Config) (srF : F32) : Voice :=
  { active := false, key := none, phaseDelta := f0, phase := f0, detunedPhase := f0,
    notePhase := f0, attackPhase := f0, vnorm := f0, env := builtEnvelope c srF }

/-- A comb of `ms` milliseconds after construction (R41). -/
def builtComb (ms srF : F32) : Comb :=
  { len := delayLen ms srF, idx := 0, feedback := f0p84, damp := f0p2, store := f0, buf := [] }

/-- An allpass of `ms` milliseconds after construction (R42). -/
def builtAllpass (ms srF : F32) : Allpass :=
  { len := delayLen ms srF, idx := 0, feedback := f0p5, buf := [] }

/-- The reverb registers after construction (R40). -/
def builtReverb (c : Config) : ReverbRegs :=
  { roomSize := c.room0, damping := c.damp0, wet := c.wet0, dry := c.dry0, width := c.width0 }

/-- The limiter after construction (R43). -/
def builtLimiter (c : Config) (srF : F32) : LimiterRegs :=
  { threshDb := c.thresh0, threshLin := dbToLin c c.thresh0,
    attackTime := c.attack0, attackCoef := coef c srF c.attack0,
    releaseTime := c.release0, releaseCoef := coef c srF c.release0,
    makeupDb := c.makeup0, makeupLin := dbToLin c c.makeup0, env := f0, gr := f1 }

/-- `SR_F` of a rate (R33). -/
def rateF32 (u : BitVec 32) : F32 := u32tof32 u.toNat

/-- `Construct(sr)` (R295): every unit anew; the error flags survive. -/
def construct (c : Config) (u : BitVec 32) (s : State) : State :=
  { s with
    cfg := true
    sr := u
    srF := rateF32 u
    out := f0
    voices := Vector.ofFn fun _ : Fin 8 => builtVoice c (rateF32 u)
    rv := builtReverb c
    combs := Vector.ofFn fun k : Fin 4 => builtComb combMs[k] (rateF32 u)
    aps := Vector.ofFn fun a : Fin 2 => builtAllpass apMs[a] (rateF32 u)
    lim := builtLimiter c (rateF32 u) }

/-- The admitted sample rates (R12). -/
def admittedRate (u : BitVec 32) : Bool := decide (srMin ≤ u.toNat) && decide (u.toNat ≤ srMax)

/-- SET_RATE (R296, R297). -/
def execSetRate (u : BitVec 32) (s : State) : Result :=
  if !admittedRate u then raiseError .range s
  else if s.cfg && decide (u = s.sr) then .next s
  else .next (construct actual u s)

/-! ### The frame (R290, R291) -/

/-- `VoiceProcess` of voice `i` (R291). -/
def frameVoice (c : Config) (s : State) (i : Fin 8) : Voice × F32 :=
  voiceProcess c s.srF i s.voices[i]

/-- The voices after the frame (R291). -/
def voicesAfter (c : Config) (s : State) : Vector Voice 8 :=
  Vector.ofFn fun i : Fin 8 => (frameVoice c s i).1

/-- The voices summed from +0.0 in index order (R291). -/
def voiceSum (c : Config) (s : State) : F32 :=
  voiceIndices.foldl (fun acc i => fadd acc (frameVoice c s i).2) f0

/-- The reverb's output for the frame (R291). -/
def frameReverb (c : Config) (s : State) : F32 := reverbOut s.rv s.combs s.aps (voiceSum c s)

/-- The frame: voices, reverb, limiter, `OUT` (R291). -/
def sampleFrame (c : Config) (s : State) : State :=
  { s with
    voices := voicesAfter c s
    combs := combsAfter s.combs (voiceSum c s)
    aps := apsAfter s.combs s.aps (voiceSum c s)
    lim := limiterAfter s.lim (frameReverb c s)
    out := limiterOut s.lim (frameReverb c s) }

/-- SAMPLE (R291). Where a delay line's index names no cell of it (R82 says it never does) the machine faults
(log 9). -/
def execSample (s : State) : Result :=
  withUnits s fun s =>
    if linesInRange s then .next (sampleFrame actual s) else .fault .delayLineIndex

/-! ### NOP and CLR_ERR -/

/-- NOP (R298). -/
def execNop (s : State) : Result := .next s

/-- CLR_ERR (R299). -/
def execClrErr (s : State) : Result := .next (clearFlags s)

end Sys2Proof.Machine
end

