-- ==== Sys2Proof/Machine/Dispatch.lean ====
section
/-! DEFINITION. Machine/Dispatch.lean: every command and its meaning (spec/30_encoding.md R105). -/

namespace Sys2Proof.Machine

def exec (i : Instr) (s : State) : Host.Outcome State Fault Refusal :=
  match i with
  | .nop => Sys2Proof.Machine.execNop s
  | .noteOn ch note vel => Sys2Proof.Machine.execNoteOn ch note vel s
  | .noteOff ch note vel => Sys2Proof.Machine.execNoteOff ch note vel s
  | .setRoom f => Sys2Proof.Machine.execSetRoom f s
  | .setDamp f => Sys2Proof.Machine.execSetDamp f s
  | .setWet f => Sys2Proof.Machine.execSetWet f s
  | .setDry f => Sys2Proof.Machine.execSetDry f s
  | .setWidth f => Sys2Proof.Machine.execSetWidth f s
  | .setThresh f => Sys2Proof.Machine.execSetThresh f s
  | .setAttack f => Sys2Proof.Machine.execSetAttack f s
  | .setRelease f => Sys2Proof.Machine.execSetRelease f s
  | .setMakeup f => Sys2Proof.Machine.execSetMakeup f s
  | .setRate u => Sys2Proof.Machine.execSetRate u s
  | .clrErr => Sys2Proof.Machine.execClrErr s
  | .sample => Sys2Proof.Machine.execSample s

end Sys2Proof.Machine
end

