-- ==== Sys2Proof/Machine/Step.lean ====
section
/-! DEFINITION. Machine/Step.lean: one step of the block, one command word (spec/30_encoding.md R110,
spec/20_memory.md R90). -/

namespace Sys2Proof.Machine

/-- One word decoded and executed (R110); a word that is no command raises ErrIllegal (R112). -/
def runWord (w : Word) (s : State) : Host.Outcome State Fault Refusal :=
  match decode w with
  | .ok i => exec i s
  | .error _ => raiseError .illegal s

/-- One step: the next word the host has lined up is taken from the port and run to completion (R90). With nothing
lined up the block holds its state (R325; log 1). -/
def step (s : State) : Host.Outcome State Fault Refusal :=
  match fetchWord s with
  | none => .next s
  | some (w, s') => runWord w s'

/-- The word put at the head of the port, so that the next step takes it (log 1). -/
def State.withFetchWord (s : State) (nbits w : Nat) : State :=
  { s with stream := tableWord nbits w :: s.stream }

end Sys2Proof.Machine
end

