-- ==== Sys2Proof/Machine/HostPort.lean ====
section
/-! DEFINITION. Machine/HostPort.lean: the host's side of the interface as far as the spec fixes it: the
pseudo-instructions (spec/30_encoding.md R119), presenting words, and `play` (spec/60_exceptions.md R330, R331). None of
it adds behaviour to the block: it makes command words and reads `OUT`. -/

namespace Sys2Proof.Machine

/-- The pseudo-instructions (R119). -/
inductive Pseudo where
  /-- `FRAMES n`. -/
  | frames (n : Nat)
  /-- `CALLBACK sr, n` around `cmds`. -/
  | callback (sr : BitVec 32) (n : Nat) (cmds : List Instr)
  /-- `NOTE_OFF_ALL`. -/
  | noteOffAll
  /-- `SET_REVERB room, damp, wet, dry, width`. -/
  | setReverb (room damp wet dry width : F32)
  /-- `SET_LIMITER thr, att, rel, mk`. -/
  | setLimiter (thr att rel mk : F32)
deriving DecidableEq, Repr

/-- The commands a pseudo-instruction stands for, in order (R119). -/
def expandPseudo : Pseudo → List Instr
  | .frames n => List.replicate n .sample
  | .callback sr n cmds => .setRate sr :: (cmds ++ List.replicate n .sample)
  | .noteOffAll => (List.range 128).map fun k => .noteOff 0#4 (BitVec.ofNat 7 k) 0#7
  | .setReverb room damp wet dry width =>
      [.setRoom room, .setDamp damp, .setWet wet, .setDry dry, .setWidth width]
  | .setLimiter thr att rel mk =>
      [.setThresh thr, .setAttack att, .setRelease rel, .setMakeup mk]

/-- A note event of the host's queue (R331). -/
inductive NoteEvent where
  /-- NoteOn(channel, note, velocity). -/
  | on (ch : Channel) (note : Note) (vel : Velocity)
  /-- NoteOff(channel, note, velocity). -/
  | off (ch : Channel) (note : Note) (vel : Velocity)
deriving DecidableEq, Repr

/-- The command the host presents for a note event (R331). -/
def eventCommand : NoteEvent → Instr
  | .on ch note vel => .noteOn ch note vel
  | .off ch note vel => .noteOff ch note vel

/-- The words of a command list in order (R90). -/
def commandWords (is : List Instr) : List Word := is.map encode

/-- The host presents one word and lets the block run it (R330). -/
def sendWord (w : Word) (s : State) : Result := step (presentWord w s)

/-- The host presents words one after another; `none` where the block stops. -/
def sendWords : List Word → State → Option State
  | [], s => some s
  | w :: ws, s =>
      match sendWord w s with
      | .next t => sendWords ws t
      | _ => none

/-- The frames of `play`: one SAMPLE each, its `OUT` copied to every channel (R331). -/
def playFrames (channels : Nat) : Nat → State → Option (State × List F32)
  | 0, s => some (s, [])
  | n + 1, s =>
      match sendWord (encode .sample) s with
      | .next t =>
          match playFrames channels n t with
          | some (u, rest) => some (u, List.replicate channels (readOut t) ++ rest)
          | none => none
      | _ => none

/-- One call of the host's `play` (R331): the rate, the drained note events in queue order, then the frames; the
answer is the block and the interleaved buffer. -/
def play (sr : BitVec 32) (events : List NoteEvent) (channels frames : Nat) (s : State) :
    Option (State × List F32) :=
  match sendWords (commandWords (.setRate sr :: events.map eventCommand)) s with
  | some t => playFrames channels frames t
  | none => none

end Sys2Proof.Machine
end

