-- ==== Sys2Proof/Machine/Reference.lean ====
section
/-! DEFINITION. Machine/Reference.lean: REF, the reference configuration of the spec (spec/00_scope.md R6 to R11), and
what R15 says of its three transcendental functions.

REF is not the machine's configuration: the machine runs under `actual`, of which only the limits are known. -/

namespace Sys2Proof.Machine

/-- REF of R7 to R11: every field that has a REF value takes it; `Sin`, `Exp`, `Pow` (whose REF is `IsReference`), the
platform's `BASE_ADDR` and the model's own `multNoKey`, which have none, are kept. -/
def reference (c : Config) : Config :=
  { c with
    attackRate := fun sr => some (fdiv f1 (fmul (decimal 5 1000) sr))
    decayRate := fun sr => some (fdiv f1 (fmul f0p15 sr))
    releaseRate := fun sr => some (fdiv f1 (fmul (decimal 25 100) sr))
    sustainLevel := f0p6
    baseRate := fun sr => fdiv f0p3 sr
    detune := #v[decimal 10010 10000, decimal 9990 10000, decimal 10015 10000, decimal 9985 10000,
      decimal 10020 10000, decimal 9980 10000, decimal 10025 10000, decimal 9975 10000]
    bright := #v[decimal 50 100, decimal 55 100, decimal 60 100, decimal 65 100,
      decimal 70 100, decimal 75 100, decimal 80 100, decimal 85 100]
    noteInc := fun sr => fdiv f1 sr
    attackIntensity := fun ap => fsub f1 ap
    mults := #v[decimal 1 1, decimal 2 1, decimal 3 1, decimal 4 1,
      decimal 5 1, decimal 6 1, decimal 7 1, decimal 8 1]
    a4 := decimal 8 100
    a5 := decimal 5 100
    boost45 := f1
    a6 := decimal 4 100
    a7 := decimal 3 100
    a8 := decimal 2 100
    hn := #v[decimal 9 1, decimal 13 1, decimal 17 1]
    hnAmp := f0p1
    thumpHz := decimal 40 1
    thumpAmp := f0p2
    detAmp := f0p1
    inharmB := fun _ => none
    room0 := decimal 7 10
    damp0 := f0p2
    wet0 := f0p3
    dry0 := decimal 7 10
    width0 := f1
    thresh0 := fneg f1
    attack0 := f0p001
    release0 := f0p1
    makeup0 := f0
    attMin := f0p0001
    attMax := f0p1
    relMin := f0p001
    relMax := f2 }

/-- The rational number a finite pattern stands for (R13). -/
def toRat (x : F32) : ℚ := (fint x : ℚ) / (unitsPerOne : ℚ)

/-- From here on the nearest binary32 is infinity: the largest finite value and half its last place (R14). -/
def overflowBound : ℚ := (2 : ℚ) ^ 128 - (2 : ℚ) ^ 103

/-- `x` is the correctly rounded (ties to even) binary32 value of the real `r` (R15): nearest, an infinity from
`overflowBound` on, and, also where it rounds to a zero, with the sign of `r`. Of the real 0 either zero is such a
value; `IsReference` says where it is +0.0. -/
def IsRounded (r : ℝ) (x : F32) : Prop :=
  (0 < r → fsign x = false) ∧ (r < 0 → fsign x = true) ∧
  ((|r| < (overflowBound : ℝ) ∧ isFinite x = true ∧
      ∀ y : F32, isFinite y = true →
        |(toRat x : ℝ) - r| < |(toRat y : ℝ) - r| ∨
          (|(toRat x : ℝ) - r| = |(toRat y : ℝ) - r| ∧ (toRat x = toRat y ∨ x.toNat % 2 = 0))) ∨
    ((overflowBound : ℝ) ≤ r ∧ x = fInf) ∨
    (r ≤ -(overflowBound : ℝ) ∧ x = fneg fInf))

/-- A reference configuration (R15): REF's values, and `Sin`, `Exp` and `Pow` correctly rounded at every finite
argument where the real function is defined: a power of a positive base, of zero to a positive exponent, and of a
negative base to an integer. The real 0 that `Sin` and `Pow` have at +0.0 is the literal 0.0 of R19, and
`Pow(1.0, b)` is 1.0: DESIGN CHOICE (log 7), of every pattern `b`, where R15 names no range. What R15 leaves open besides
is log 7 too. -/
def IsReference (c : Config) : Prop :=
  c = reference c ∧
  (∀ x : F32, isFinite x = true → IsRounded (Real.sin (toRat x : ℝ)) (c.sin x)) ∧
  (∀ x : F32, isFinite x = true → IsRounded (Real.exp (toRat x : ℝ)) (c.exp x)) ∧
  (∀ a b : F32, isFinite a = true → isFinite b = true →
    (0 < toRat a ∨ (toRat a = 0 ∧ 0 < toRat b)) →
      IsRounded ((toRat a : ℝ) ^ (toRat b : ℝ)) (c.pow a b)) ∧
  (∀ (a b : F32) (n : ℤ), isFinite a = true → isFinite b = true → toRat a < 0 → toRat b = n →
    IsRounded ((toRat a : ℝ) ^ n) (c.pow a b)) ∧
  c.sin f0 = f0 ∧
  (∀ b : F32, isFinite b = true → 0 < toRat b → c.pow f0 b = f0) ∧
  (∀ b : F32, c.pow f1 b = f1)

/-- R162: `b` is the inharmonicity coefficient of a string of diameter `d` and length `l` in metres and tension `t` in
newtons, Young's modulus being 2*10^11 Pa. The block takes the coefficient of a note from `P_INHARM_B` and computes
none (log 19). -/
def IsInharmonicity (d l t b : ℝ) : Prop :=
  0 < d ∧ 0 < l ∧ 0 < t ∧ b * (64 * t * l ^ 2) = Real.pi ^ 3 * d ^ 4 * (2 * 10 ^ 11)

end Sys2Proof.Machine
end

