-- ==== Sys2Proof/Safety.lean ====
section
/-! DEFINITION. Safety.lean: what holds of the block between commands: the invariants of spec/10_state.md (R36 to R43) and
spec/20_memory.md (R80 to R84), in the terms the statements use. Each is a statement of its own that every step keeps. -/

namespace Sys2Proof.Machine

/-- A delay line of `len` cells: its index names a cell (R82), its memory is in canonical form (log 10) and lists cells
of the line only (R80). -/
def lineOk (len idx : Nat) (m : DelayMem) : Bool := decide (idx < len) && memWf m && memBelow len m

/-- All six delay lines are sound (R80, R82). -/
def LinesOk (s : State) : Prop :=
  (∀ k : Fin 4, lineOk s.combs[k].len s.combs[k].idx s.combs[k].buf = true) ∧
  (∀ a : Fin 2, lineOk s.aps[a].len s.aps[a].idx s.aps[a].buf = true)

/-- What a voice's flag, key and envelope state say together between commands (R202, R203, R37): an active voice has a
key and an envelope that is not Idle; an inactive one is Idle, or in Release by a stale NOTE_OFF; a voice that never had
a key is Idle. -/
def voiceOk (v : Voice) : Bool :=
  (if v.active then envActive v.env && v.key.isSome
   else decide (v.env.state = .idle ∨ v.env.state = .release)) &&
  (v.key.isSome || decide (v.env.state = .idle))

/-- Every voice is sound. -/
def VoicesOk (s : State) : Prop := ∀ i : Fin 8, voiceOk s.voices[i] = true

/-- Before the first construction there is no rate, no sound and no active voice (R32 to R34, R340). -/
def PowerOnOk (s : State) : Prop :=
  s.cfg = false → s.sr = 0#32 ∧ s.srF = f0 ∧ s.out = f0 ∧ ∀ i : Fin 8, s.voices[i].active = false

/-- The parameter registers hold legal values once there are units (R40, R43). -/
def ParamsLegal (c : Config) (s : State) : Prop :=
  s.cfg = true →
    inRange f0 f1 s.rv.roomSize = true ∧ inRange f0 f1 s.rv.damping = true ∧
    inRange f0 f1 s.rv.wet = true ∧ inRange f0 f1 s.rv.dry = true ∧ inRange f0 f1 s.rv.width = true ∧
    inRange fm60 f0 s.lim.threshDb = true ∧ inRange f0 f30 s.lim.makeupDb = true ∧
    inRange c.attMin c.attMax s.lim.attackTime = true ∧
    inRange c.relMin c.relMax s.lim.releaseTime = true

/-- The rate and the lengths agree (R33, R41, R42). -/
def RateOk (s : State) : Prop :=
  s.cfg = true →
    admittedRate s.sr = true ∧ s.srF = rateF32 s.sr ∧
    (∀ k : Fin 4, s.combs[k].len = delayLen combMs[k] s.srF) ∧
    (∀ a : Fin 2, s.aps[a].len = delayLen apMs[a] s.srF ∧ s.aps[a].feedback = f0p5)

/-- The registers computed from others agree with them (R43, R262, R263). -/
def LimiterCached (c : Config) (s : State) : Prop :=
  s.cfg = true →
    s.lim.threshLin = dbToLin c s.lim.threshDb ∧ s.lim.makeupLin = dbToLin c s.lim.makeupDb ∧
    s.lim.attackCoef = coef c s.srF s.lim.attackTime ∧
    s.lim.releaseCoef = coef c s.srF s.lim.releaseTime

/-- Every comb holds the construction literals, or every comb holds what the reverb registers give (R41, R230). -/
def CombsCached (s : State) : Prop :=
  s.cfg = true →
    (∀ k : Fin 4, s.combs[k].feedback = f0p84 ∧ s.combs[k].damp = f0p2) ∨
    (∀ k : Fin 4, s.combs[k].feedback = fadd (fmul s.rv.roomSize f0p6) f0p4 ∧
      s.combs[k].damp = s.rv.damping)

/-- A voice's per-note registers agree with its key, and its envelope's constants with the configuration
(R165, R38). -/
def VoicesCached (c : Config) (s : State) : Prop :=
  s.cfg = true → ∀ i : Fin 8,
    s.voices[i].env.sustainLevel = c.sustainLevel ∧
    s.voices[i].env.attackRate = c.attackRate s.srF ∧
    s.voices[i].env.decayRate = c.decayRate s.srF ∧
    s.voices[i].env.releaseRate = c.releaseRate s.srF ∧
    (∀ key : Key, s.voices[i].key = some key →
      key.freq = keyFreq c key.note ∧ s.voices[i].phaseDelta = fdiv key.freq s.srF ∧
      s.voices[i].env.velocityLevel = c.pow s.voices[i].vnorm f0p8 ∧
      s.voices[i].env.sustainDecayRate = sustainDecayOf c s.srF key.freq s.voices[i].vnorm)

/-- An accumulator lies in [0, 1), with the sign bit clear (R37). -/
def unitPhase (x : F32) : Bool := !fsign x && flt x f1

/-- There is an admitted rate, SR_F is its value, and the attack tracker of every voice lies in [0, 1) (R33, R37). -/
def TrackersOk (s : State) : Prop :=
  s.cfg = true →
    admittedRate s.sr = true ∧ s.srF = rateF32 s.sr ∧ ∀ i : Fin 8, unitPhase s.voices[i].attackPhase = true

/-- Both phase accumulators of every voice lie in [0, 1), and no note accumulator is below 0 (R37). -/
def AccumulatorsOk (s : State) : Prop :=
  ∀ i : Fin 8, unitPhase s.voices[i].phase = true ∧ unitPhase s.voices[i].detunedPhase = true ∧
    fle f0 s.voices[i].notePhase = true

/-- A magnitude: finite, with the sign bit clear. -/
def nonNegFinite (x : F32) : Bool := isFinite x && !fsign x

/-- Units that make no sound: no voice runs, every line is blank, the follower is at rest, and the registers that
multiply the silence are finite and not negative (R292). -/
def Silent (s : State) : Prop :=
  s.cfg = true ∧ linesInRange s = true ∧
  (∀ i : Fin 8, s.voices[i].active = false ∧ s.voices[i].env.state = .idle) ∧
  (∀ k : Fin 4, s.combs[k].buf = [] ∧ s.combs[k].store = f0 ∧
    nonNegFinite s.combs[k].feedback = true ∧ nonNegFinite s.combs[k].damp = true ∧
    fle s.combs[k].damp f1 = true) ∧
  (∀ a : Fin 2, s.aps[a].buf = [] ∧ nonNegFinite s.aps[a].feedback = true) ∧
  nonNegFinite s.rv.wet = true ∧ nonNegFinite s.rv.dry = true ∧
  s.lim.env = f0 ∧ flt f0 s.lim.threshLin = true ∧ nonNegFinite s.lim.makeupLin = true ∧
  nonNegFinite s.lim.releaseCoef = true ∧ fle s.lim.releaseCoef f1 = true

/-- The f32 operand of a format-F command (R102). -/
def setterOperand : Instr → Option F32
  | .setRoom f => some f
  | .setDamp f => some f
  | .setWet f => some f
  | .setDry f => some f
  | .setWidth f => some f
  | .setThresh f => some f
  | .setAttack f => some f
  | .setRelease f => some f
  | .setMakeup f => some f
  | .nop => none
  | .noteOn _ _ _ => none
  | .noteOff _ _ _ => none
  | .setRate _ => none
  | .clrErr => none
  | .sample => none

/-- The register that a format-F command writes from its clamped operand (R231 to R235, R270 to R273). -/
def setterRegister (s : State) : Instr → Option F32
  | .setRoom _ => some s.rv.roomSize
  | .setDamp _ => some s.rv.damping
  | .setWet _ => some s.rv.wet
  | .setDry _ => some s.rv.dry
  | .setWidth _ => some s.rv.width
  | .setThresh _ => some s.lim.threshDb
  | .setAttack _ => some s.lim.attackTime
  | .setRelease _ => some s.lim.releaseTime
  | .setMakeup _ => some s.lim.makeupDb
  | .nop => none
  | .noteOn _ _ _ => none
  | .noteOff _ _ _ => none
  | .setRate _ => none
  | .clrErr => none
  | .sample => none

/-- The range that a format-F command clamps its operand to (R231 to R235, R270 to R273). -/
def setterRange (c : Config) : Instr → Option (F32 × F32)
  | .setRoom _ => some (f0, f1)
  | .setDamp _ => some (f0, f1)
  | .setWet _ => some (f0, f1)
  | .setDry _ => some (f0, f1)
  | .setWidth _ => some (f0, f1)
  | .setThresh _ => some (fm60, f0)
  | .setAttack _ => some (c.attMin, c.attMax)
  | .setRelease _ => some (c.relMin, c.relMax)
  | .setMakeup _ => some (f0, f30)
  | .nop => none
  | .noteOn _ _ _ => none
  | .noteOff _ _ _ => none
  | .setRate _ => none
  | .clrErr => none
  | .sample => none

/-- Voice `j` is in the class, no voice of the class is below it, and every voice of the class before it is above it
(R204). -/
def LeastOfClass (vs : Vector Voice 8) (inClass : EnvState → Prop) (j : Fin 8) : Prop :=
  inClass vs[j].env.state ∧
  ∀ i : Fin 8, inClass vs[i].env.state →
    fle vs[j].env.level vs[i].env.level = true ∧
    (i < j → flt vs[j].env.level vs[i].env.level = true)

/-- Every word of the row with a nonzero reserved field raises ErrIllegal and does nothing else (R112). -/
def MalformedOnlyRaises (op : Op) : Prop :=
  ∀ (w : Word) (s : State), opcField w = op.code → w &&& op.format.mask ≠ op.pattern →
    runWord w s = .next { s with errIllegal := true }

/-- Two states without units that agree on everything but the units (R340). -/
def SameButUnits (s t : State) : Prop :=
  s.cfg = false ∧ t.cfg = false ∧ s.sr = t.sr ∧ s.srF = t.srF ∧ s.out = t.out ∧
  s.errIllegal = t.errIllegal ∧ s.errUncfg = t.errUncfg ∧ s.errRange = t.errRange ∧
  s.errNan = t.errNan ∧ s.stream = t.stream

/-- Two states that differ at most in the width register. -/
def EqButWidth (s t : State) : Prop := ∃ w : F32, t = { s with rv := { s.rv with width := w } }

end Sys2Proof.Machine
end

