-- ==== Sys2Proof/Certificates/Slice0/Obligations.lean ====
section
/-! DEFINITION. Certificates/Slice0/Obligations.lean: the statements for the provers. Each docstring names the rules of
spec/ it formalises. -/

open Sys2Proof Sys2Proof.Machine

/-! ### Power-on and STATUS -/

/-- R48: every bit of STATUS. -/
def Obligations.StatusBitLayout : Prop :=
  ∀ s : State,
    (status s).getLsbD 0 = s.cfg ∧ (status s).getLsbD 1 = s.errIllegal ∧
    (status s).getLsbD 2 = s.errUncfg ∧ (status s).getLsbD 3 = s.errRange ∧
    (status s).getLsbD 4 = s.errNan ∧
    (∀ i : Fin 8, (status s).getLsbD (8 + i.val) = (s.cfg && s.voices[i].active)) ∧
    (∀ j : Nat, (5 ≤ j ∧ j ≤ 7) ∨ 16 ≤ j → (status s).getLsbD j = false)

/-- R340: the registers the spec gives a power-on value; and before the first construction nothing of the units can be
seen: two blocks that differ in their units only step to blocks with equal OUT and STATUS that again differ in their units
only, or are built and equal. -/
def Obligations.PowerOnRegistersAndUnobservableUnits : Prop :=
  (State.reset.cfg = false ∧ State.reset.sr = 0#32 ∧ State.reset.srF = 0x00000000#32 ∧
    readOut State.reset = 0x00000000#32 ∧ readStatus State.reset = 0x00000000#32) ∧
  ∀ s s' t : State, SameButUnits s s' → step s = .next t →
    ∃ t', step s' = .next t' ∧ readOut t = readOut t' ∧ readStatus t = readStatus t' ∧
      (SameButUnits t t' ∨ (t.cfg = true ∧ t = t'))

/-! ### Encoding -/

/-- R101 to R106, R110: decoding an encoded command gives it back, every operand included. -/
def Obligations.DecodeAfterEncode : Prop :=
  ∀ i : Instr, decode (encode i) = .ok i

/-- R101 to R106, R110: a word that decodes is the word of its command, so no bit of a word is dropped. -/
def Obligations.EncodeAfterDecode : Prop :=
  ∀ (w : Word) (i : Instr), decode w = .ok i → encode i = w

/-- R85, R86: eight little-endian bytes are read as their command word, and the bytes after them are left; the four bytes
of OUT and of STATUS are theirs in the same order, and give the word back. -/
def Obligations.BytesDecodeAsTheirWord : Prop :=
  (∀ (w : Word) (rest : List Byte),
    (∀ i, decode w = .ok i → decodeBytes (wordBytes w ++ rest) = .ok (i, rest)) ∧
    (∀ e, decode w = .error e → decodeBytes (wordBytes w ++ rest) = .error e)) ∧
  (∀ (s : State) (k : Fin 4) (j : Fin 8),
    ((outBytes s).getD k.val 0#8).getLsbD j.val = (readOut s).getLsbD (8 * k.val + j.val) ∧
    ((statusBytes s).getD k.val 0#8).getLsbD j.val = (readStatus s).getLsbD (8 * k.val + j.val)) ∧
  (∀ s : State, portWord (outBytes s) = some (readOut s) ∧ portWord (statusBytes s) = some (readStatus s))

/-- R120: words written out in the spec decode to their commands. -/
def Obligations.WorkedEncodingsDecode : Prop :=
  decode 0x0000000000000000#64 = .ok .nop ∧
  decode 0x0100457F00000000#64 = .ok (.noteOn 0#4 69#7 127#7) ∧
  decode 0x010C3C4000000000#64 = .ok (.noteOn 12#4 60#7 64#7) ∧
  decode 0x0200450000000000#64 = .ok (.noteOff 0#4 69#7 0#7) ∧
  decode 0x100000003F000000#64 = .ok (.setRoom 0x3F000000#32) ∧
  decode 0x110000003E4CCCCD#64 = .ok (.setDamp 0x3E4CCCCD#32) ∧
  decode 0x1200000000000000#64 = .ok (.setWet 0x00000000#32) ∧
  decode 0x130000003F800000#64 = .ok (.setDry 0x3F800000#32) ∧
  decode 0x140000003F800000#64 = .ok (.setWidth 0x3F800000#32) ∧
  decode 0x20000000C0C00000#64 = .ok (.setThresh 0xC0C00000#32) ∧
  decode 0x210000003A83126F#64 = .ok (.setAttack 0x3A83126F#32) ∧
  decode 0x220000003DCCCCCD#64 = .ok (.setRelease 0x3DCCCCCD#32) ∧
  decode 0x2300000000000000#64 = .ok (.setMakeup 0x00000000#32) ∧
  decode 0x300000000000AC44#64 = .ok (.setRate 44100#32) ∧
  decode 0x3F00000000000000#64 = .ok .clrErr ∧
  decode 0x4000000000000000#64 = .ok .sample ∧
  decode 0x4100000000000000#64 = .error (.unassignedOpcode 0x41#8) ∧
  decode 0x0100C57F00000000#64 = .error (.reservedField .noteOn)

/-! ### A step -/

/-- R110: when the next word decodes, the step is that command's meaning, the word taken from the port. Log 1, the
model's choice: a command put on the port is run by the very next step, and with no word presented the block holds its
state (as R325 says of the time between commands). -/
def Obligations.StepRunsDecodedCommand : Prop :=
  (∀ (s : State) (w : Word) (rest : List Word) (i : Instr),
    s.stream = w :: rest → decode w = .ok i → step s = exec i { s with stream := rest }) ∧
  (∀ (s : State) (i : Instr), step (s.withFetchWord 64 (encode i).toNat) = exec i s) ∧
  (∀ s : State, s.stream = [] → step s = .next s)

/-! ### Errors -/

/-- R112: 241 opcodes are unassigned; a word with one of them, or with a nonzero reserved field, sets ERR_ILLEGAL and
changes nothing else. -/
def Obligations.IllegalWordsOnlyRaise : Prop :=
  ((List.range 256).filter fun n => (opOfCode (BitVec.ofNat 8 n)).isNone).length = 241 ∧
  (∀ (w : Word) (s : State), (∀ op : Op, opcField w ≠ op.code) →
    runWord w s = .next { s with errIllegal := true }) ∧
  (∀ op : Op, MalformedOnlyRaises op)

/-- R313: the commands of the column "needs CFG" do nothing but set ERR_UNCFG while there are no units; NOP, CLR_ERR and
SET_RATE never set it. -/
def Obligations.CommandsWithoutUnitsOnlyRaise : Prop :=
  (∀ (i : Instr) (s : State), i.op.needsCfg = true → s.cfg = false →
    exec i s = .next { s with errUncfg := true }) ∧
  (∀ (i : Instr) (s t : State), i.op.needsCfg = false → exec i s = .next t →
    t.errUncfg = true → s.errUncfg = true) ∧
  (∀ op : Op, op.needsCfg = false ↔ op = .nop ∨ op = .clrErr ∨ op = .setRate)

/-- R114: a NaN is an exponent of all ones with a nonzero fraction; a setter given one sets ERR_NAN and does nothing
else; given any other operand, an infinity included, its register takes the operand clamped, and ERR_NAN stays. -/
def Obligations.NanOperandsOnlyRaise : Prop :=
  (∀ f : F32, isNaN f = true ↔ f.extractLsb' 23 8 = 0xFF#8 ∧ f.extractLsb' 0 23 ≠ 0#23) ∧
  (∀ (i : Instr) (f : F32) (s : State), setterOperand i = some f → s.cfg = true → isNaN f = true →
    exec i s = .next { s with errNan := true }) ∧
  (∀ (i : Instr) (f : F32) (s : State), setterOperand i = some f → s.cfg = true → isNaN f = false →
    ∃ t r, exec i s = .next t ∧ t.errNan = s.errNan ∧ setterRange actual i = some r ∧
      setterRegister t i = some (fclamp f r.1 r.2))

/-- R297: a rate outside 8000 to 192000, zero included, sets ERR_RANGE and changes nothing else. -/
def Obligations.RateOutsideRangeOnlyRaises : Prop :=
  ∀ (u : BitVec 32) (s : State), (u.toNat < 8000 ∨ 192000 < u.toNat) →
    exec (.setRate u) s = .next { s with errRange := true }

/-- R314: the checks in their order, each of them ending the command. -/
def Obligations.ErrorPriority : Prop :=
  ∀ (w : Word) (s : State),
    (∀ e, decode w = .error e → runWord w s = .next (setFlag .illegal s)) ∧
    (∀ i, decode w = .ok i → i.op.needsCfg = true → s.cfg = false →
      runWord w s = .next (setFlag .uncfg s)) ∧
    (∀ i f, decode w = .ok i → s.cfg = true → setterOperand i = some f → isNaN f = true →
      runWord w s = .next (setFlag .nan s)) ∧
    (∀ u, decode w = .ok (.setRate u) → (u.toNat < 8000 ∨ 192000 < u.toNat) →
      runWord w s = .next (setFlag .range s))

/-- R311, R314: a step that sets a flag that was clear changes nothing but that flag (and takes the word from the
port). -/
def Obligations.RaisedErrorChangesNothingElse : Prop :=
  ∀ (s t : State) (e : BlockError), step s = .next t → getFlag e s = false → getFlag e t = true →
    t = setFlag e { s with stream := s.stream.tail }

/-- R312, R299: a set flag stays set through every step but a CLR_ERR. -/
def Obligations.ErrorFlagsAreSticky : Prop :=
  ∀ (s t : State) (e : BlockError), step s = .next t → getFlag e s = true →
    getFlag e t = true ∨
      ∃ (w : Word) (rest : List Word), s.stream = w :: rest ∧ decode w = .ok .clrErr

/-! ### NOP, CLR_ERR -/

/-- R298: NOP changes nothing; a word of opcode 0 with any other bit set raises ErrIllegal. -/
def Obligations.NopChangesNothing : Prop :=
  (∀ s : State, exec .nop s = .next s) ∧ MalformedOnlyRaises .nop

/-- R299: CLR_ERR clears STATUS bits 4:1 and nothing else; a malformed CLR_ERR clears nothing. -/
def Obligations.ClrErrClearsErrorBits : Prop :=
  (∀ s : State, ∃ t, exec .clrErr s = .next t ∧ status t = status s &&& 0xFFFFFFE1#32 ∧
    t = { s with errIllegal := false, errUncfg := false, errRange := false, errNan := false }) ∧
  MalformedOnlyRaises .clrErr

/-! ### Notes -/

/-- R201: NOTE_ON writes one voice by the voice rule and nothing else: the inactive voice of least number, or, with every
voice active, the voice that the stealing policy takes; without units it only raises ErrUncfg. -/
def Obligations.NoteOnWritesOneVoice : Prop :=
  (∀ (ch : Channel) (n : Note) (vel : Velocity) (s : State) (j : Fin 8), s.cfg = true →
    ((s.voices[j].active = false ∧ ∀ k : Fin 8, k < j → s.voices[k].active = true) ∨
      ((∀ k : Fin 8, s.voices[k].active = true) ∧ j = steal s.voices)) →
    ∃ t, exec (.noteOn ch n vel) s = .next t ∧
      t = { s with voices := s.voices.set j (voiceNoteOn actual s.srF n vel s.voices[j]) } ∧
      (readStatus t).getLsbD (8 + j.val) = true) ∧
  (∀ (ch : Channel) (n : Note) (vel : Velocity) (s : State), s.cfg = false →
    exec (.noteOn ch n vel) s = .next { s with errUncfg := true }) ∧
  MalformedOnlyRaises .noteOn

/-- R204, R202: the stolen voice is the first of least level among the Release voices if there is one, else among the
Sustain voices if there is one, else among all. R202 states only comparisons, so the levels are taken to be numbers (log 16). -/
def Obligations.StealTakesQuietestOfClass : Prop :=
  ∀ vs : Vector Voice 8, (∀ i : Fin 8, isNaN vs[i].env.level = false) →
    ((∃ i : Fin 8, vs[i].env.state = .release) → LeastOfClass vs (· = .release) (steal vs)) ∧
    ((∀ i : Fin 8, vs[i].env.state ≠ .release) → (∃ i : Fin 8, vs[i].env.state = .sustain) →
      LeastOfClass vs (· = .sustain) (steal vs)) ∧
    ((∀ i : Fin 8, vs[i].env.state ≠ .release) → (∀ i : Fin 8, vs[i].env.state ≠ .sustain) →
      LeastOfClass vs (fun _ => True) (steal vs))

/-- R165, R161, R133: every field of a voice after a note-on, those it keeps included. -/
def Obligations.NoteOnVoiceFields : Prop :=
  ∀ (c : Config) (srF : F32) (n : Note) (vel : Velocity) (v : Voice),
    let f := fmul f440 (c.pow f2 (fdiv (fsub (u32tof32 n.toNat) f69) f12))
    let vn := fdiv (u32tof32 vel.toNat) f127
    voiceNoteOn c srF n vel v =
      { active := true, key := some { freq := f, note := n }, phaseDelta := fdiv f srF,
        phase := v.phase, detunedPhase := v.detunedPhase, notePhase := f0, attackPhase := f0,
        vnorm := vn,
        env := { state := .attack, level := v.env.level, sustainLevel := v.env.sustainLevel,
                 velocityLevel := c.pow vn f0p8, attackRate := v.env.attackRate,
                 decayRate := v.env.decayRate, releaseRate := v.env.releaseRate,
                 sustainDecayRate := fmul (fmul (c.baseRate srF) (fsqrt (fdiv f f110)))
                   (fsub f1 (fmul f0p3 vn)) } }

/-- R203: NOTE_OFF moves the envelope of every voice whose stored key is the note to Release, active or not, and changes
nothing else; without units it only raises ErrUncfg. -/
def Obligations.NoteOffReleasesEveryMatch : Prop :=
  (∀ (ch : Channel) (n : Note) (vel : Velocity) (s : State), s.cfg = true →
    ∃ t, exec (.noteOff ch n vel) s = .next t ∧ t = { s with voices := t.voices } ∧
      ∀ i : Fin 8,
        ((∃ key, s.voices[i].key = some key ∧ key.note = n) →
          t.voices[i] = { s.voices[i] with env := { s.voices[i].env with state := .release } }) ∧
        ((∀ key, s.voices[i].key = some key → key.note ≠ n) → t.voices[i] = s.voices[i])) ∧
  (∀ (ch : Channel) (n : Note) (vel : Velocity) (s : State), s.cfg = false →
    exec (.noteOff ch n vel) s = .next { s with errUncfg := true }) ∧
  MalformedOnlyRaises .noteOff

/-! ### Envelope -/

/-- R131: the only transitions of an envelope, each with its cause; trigger and release reach their state from
any. -/
def Obligations.EnvelopeStateGraph : Prop :=
  ∀ e : Envelope,
    (envTrigger e).state = .attack ∧ (envRelease e).state = .release ∧
    ((envProcess e).1.state = e.state ∨
      (e.state = .attack ∧ (envProcess e).1.state = .decay ∧ (envProcess e).1.level = f1 ∧
        (e.attackRate = none ∨ ∃ r, e.attackRate = some r ∧ fge (fadd e.level r) f1 = true)) ∨
      (e.state = .decay ∧ (envProcess e).1.state = .sustain ∧
        (e.decayRate = none ∨ fle (envProcess e).1.level e.sustainLevel = true)) ∨
      (e.state = .sustain ∧ (envProcess e).1.state = .idle ∧
        fle (envProcess e).1.level f0 = true) ∨
      (e.state = .release ∧ (envProcess e).1.state = .idle ∧
        (e.releaseRate = none ∨ fle (envProcess e).1.level f0p0001 = true)))

/-- R135 to R141: the new level and state of each arm, and the output taken after the update. -/
def Obligations.EnvelopeArms : Prop :=
  ∀ e : Envelope,
    (envProcess e).2 = fmul (envProcess e).1.level e.velocityLevel ∧
    (e.state = .idle → (envProcess e).1 = e) ∧
    (e.state = .attack → e.attackRate = none →
      (envProcess e).1 = { e with level := f1, state := .decay }) ∧
    (∀ r, e.state = .attack → e.attackRate = some r → (envProcess e).1 =
      if fge (fadd e.level r) f1 = true then { e with level := f1, state := .decay }
      else { e with level := fadd e.level r }) ∧
    (e.state = .decay → e.decayRate = none →
      (envProcess e).1 = { e with level := e.sustainLevel, state := .sustain }) ∧
    (∀ r, e.state = .decay → e.decayRate = some r → (envProcess e).1 =
      { e with level := fsub e.level r,
               state := if fle (fsub e.level r) e.sustainLevel = true then .sustain else .decay }) ∧
    (e.state = .sustain → (envProcess e).1 =
      { e with level := fsub e.level e.sustainDecayRate,
               state := if fle (fsub e.level e.sustainDecayRate) f0 = true then .idle else .sustain }) ∧
    (e.state = .release → e.releaseRate = none →
      (envProcess e).1 = { e with level := f0, state := .idle }) ∧
    (∀ r, e.state = .release → e.releaseRate = some r →
      let l := fsub e.level (fmul (fmul r e.level) (if fgt e.level f0p1 = true then f2p5 else f1))
      (envProcess e).1 =
        { e with level := l, state := if fle l f0p0001 = true then .idle else .release })

/-! ### Voice -/

/-- R167: the gate of a voice: nothing, a deactivation with output +0.0, or a sounding sample. -/
def Obligations.VoiceGating : Prop :=
  ∀ (c : Config) (srF : F32) (i : Fin 8) (v : Voice),
    (v.active = false → v.env.state = .idle → voiceProcess c srF i v = (v, f0)) ∧
    (v.active = true ∨ v.env.state ≠ .idle → (envProcess v.env).1.state = .idle →
      voiceProcess c srF i v = ({ v with env := (envProcess v.env).1, active := false }, f0)) ∧
    (v.active = true ∨ v.env.state ≠ .idle → (envProcess v.env).1.state ≠ .idle →
      let v' := advanceAttack srF (advancePhases c srF i { v with env := (envProcess v.env).1 })
      voiceProcess c srF i v =
        (v', fmul (fmul (bank c i v' (c.attackIntensity v'.attackPhase)) f0p3) (envProcess v.env).2))

/-- R168, R169: the accumulators and the tracker of a sounding voice, and nothing else of it; the intensity is taken from
the moved tracker. -/
def Obligations.VoiceAccumulators : Prop :=
  ∀ (c : Config) (srF : F32) (i : Fin 8) (v : Voice),
    advanceAttack srF (advancePhases c srF i v) =
      { v with
        phase := fsub (fadd v.phase v.phaseDelta) (ffloor (fadd v.phase v.phaseDelta))
        detunedPhase := fsub (fadd v.detunedPhase (fmul v.phaseDelta c.detune[i]))
          (ffloor (fadd v.detunedPhase (fmul v.phaseDelta c.detune[i])))
        notePhase := fadd v.notePhase (c.noteInc srF)
        attackPhase := fadd v.attackPhase (fmul (fdiv f50 srF) (fsub f1 v.attackPhase)) } ∧
    attackIntensity c v = c.attackIntensity v.attackPhase

/-- R170 to R173, R164: the oscillator bank of a voice with a key, with and without the transient terms. -/
def Obligations.OscillatorBank : Prop :=
  ∀ (c : Config) (i : Fin 8) (v : Voice) (key : Key) (ai : F32), v.key = some key →
    let m := fun j : Fin 8 => match c.inharmB key.note with
      | none => c.mults[j]
      | some b => inharmMult b (j.val + 1)
    let h := fun j : Fin 8 => c.sin (fmul (fmul tau v.phase) (m j))
    let s3 := fadd (fadd (fmul f0p6 (h 0)) (fmul f0p4 (h 1))) (fmul f0p15 (h 2))
    let s5 := fadd s3 (fmul (fmul c.bright[i] (fadd (fmul c.a4 (h 3)) (fmul c.a5 (h 4))))
      (fadd f1 (fmul c.boost45 ai)))
    let s8 := fadd s5 (fmul ai (fadd (fadd (fmul c.a6 (h 5)) (fmul c.a7 (h 6))) (fmul c.a8 (h 7))))
    let hn := fmul (fmul (c.sin (fmul (fmul tau v.phase) c.hn[0])) (c.sin (fmul (fmul tau v.phase) c.hn[1])))
      (c.sin (fmul (fmul tau v.phase) c.hn[2]))
    let sn := fadd s8 (fmul (fmul (fmul c.hnAmp ai) v.vnorm) hn)
    let st := fadd sn (fmul (fmul (fmul c.thumpAmp ai) v.vnorm)
      (c.sin (fmul (fmul tau c.thumpHz) v.notePhase)))
    let det := fmul c.detAmp (c.sin (fmul tau v.detunedPhase))
    (fgt ai f0p01 = true → bank c i v ai = fadd st det) ∧
    (fgt ai f0p01 = false → bank c i v ai = fadd s5 det)

/-- R18: of a finite value that is not negative, −0.0 included, Frac is the value less its floor, exact, and in
[0, 1). -/
def Obligations.FracIsExactAndBelowOne : Prop :=
  ∀ x : F32, isFinite x = true → fle f0 x = true →
    frac x = fsub x (ffloor x) ∧ fint (frac x) = fint x % (unitsPerOne : Int) ∧
      fle f0 (frac x) = true ∧ flt (frac x) f1 = true

/-- R37: a frame keeps both phase accumulators of every voice in [0, 1), where the phase steps are finite and not
negative, and the note accumulators at or above 0, where the note increment is, whatever the configuration; and every
step but a SAMPLE keeps the three accumulators so with no such premise. -/
def Obligations.FrameKeepsPhasesBelowOne : Prop :=
  (∀ (c : Config) (s : State),
    (∀ i : Fin 8, unitPhase s.voices[i].phase = true ∧ unitPhase s.voices[i].detunedPhase = true ∧
      nonNegFinite s.voices[i].phaseDelta = true ∧
      nonNegFinite (fmul s.voices[i].phaseDelta c.detune[i]) = true) →
    ∀ i : Fin 8, unitPhase (sampleFrame c s).voices[i].phase = true ∧
      unitPhase (sampleFrame c s).voices[i].detunedPhase = true) ∧
  (∀ (c : Config) (s : State), fle f0 (c.noteInc s.srF) = true →
    (∀ i : Fin 8, fle f0 s.voices[i].notePhase = true) →
    ∀ i : Fin 8, fle f0 (sampleFrame c s).voices[i].notePhase = true) ∧
  (∀ s t : State, AccumulatorsOk s → step s = .next t →
    AccumulatorsOk t ∨
      ∃ (w : Word) (rest : List Word), s.stream = w :: rest ∧ decode w = .ok .sample)

/-- R163, R175: the multiplier of harmonic 1 is 1.0; for B above 0 and harmonics 2 to 8 it is at least k, and above k
exactly when the rounded B·k² is at least 0x34400000. -/
def Obligations.InharmonicMultiplierBounds : Prop :=
  ∀ b : F32, inharmMult b 1 = f1 ∧
    (flt f0 b = true → ∀ k : Nat, 2 ≤ k → k ≤ 8 →
      fle (u32tof32 k) (inharmMult b k) = true ∧
      (flt (u32tof32 k) (inharmMult b k) = true ↔
        fle 0x34400000#32 (fmul b (fmul (u32tof32 k) (u32tof32 k))) = true))

/-- R161, R15: where Pow takes its exact REF values at 0 and 1 (of base 2), notes 69 and 81 have exactly 440.0 and 880.0
Hz. -/
def Obligations.KeyFrequenciesOfA4AndA5 : Prop :=
  ∀ c : Config, c.pow f2 f0 = f1 → c.pow f2 f1 = f2 →
    keyFreq c 69#7 = f440 ∧ keyFreq c 81#7 = 0x445C0000#32

/-- R15, R161, R165, R262: the exact values of a reference configuration: the four of R15, the frequencies of notes 69 and
81, the velocity levels of velocities 0 and 127, and the gains of 0 dB and −0 dB. R15 writes `Pow(1.0, b) = 1.0` with no
range for b; that it is said of every pattern b, infinities and NaNs included, is the model's choice (log 7, DESIGN
CHOICE, unsafe there). -/
def Obligations.ReferenceExactValues : Prop :=
  ∀ c : Config, IsReference c →
    c.pow f2 f0 = f1 ∧ (∀ b : F32, c.pow f1 b = f1) ∧ c.pow f0 f0p8 = f0 ∧ c.pow f10 f0 = f1 ∧
    keyFreq c 69#7 = f440 ∧ keyFreq c 81#7 = 0x445C0000#32 ∧
    (∀ (srF : F32) (n : Note) (v : Voice), (voiceNoteOn c srF n 0#7 v).env.velocityLevel = f0 ∧
      (voiceNoteOn c srF n 127#7 v).env.velocityLevel = f1) ∧
    dbToLin c f0 = f1 ∧ dbToLin c (fneg f0) = f1

/-! ### Reverb -/

/-- R224: each comb under SAMPLE: its store, the one cell it writes, its index; every other cell and register stays. -/
def Obligations.SampleAdvancesCombs : Prop :=
  ∀ s t : State, exec .sample s = .next t → s.cfg = true →
    (∀ k : Fin 4, memWf s.combs[k].buf = true) →
    ∀ k : Fin 4,
      let out := memRead s.combs[k].buf s.combs[k].idx
      let store := fadd (fmul out (fsub f1 s.combs[k].damp)) (fmul s.combs[k].store s.combs[k].damp)
      t.combs[k].store = store ∧
      memRead t.combs[k].buf s.combs[k].idx =
        fadd (voiceSum actual s) (fmul store s.combs[k].feedback) ∧
      (∀ a, a ≠ s.combs[k].idx → memRead t.combs[k].buf a = memRead s.combs[k].buf a) ∧
      t.combs[k].idx = (s.combs[k].idx + 1) % s.combs[k].len ∧ t.combs[k].len = s.combs[k].len ∧
      t.combs[k].feedback = s.combs[k].feedback ∧ t.combs[k].damp = s.combs[k].damp

/-- R225, R226: each allpass under SAMPLE, in series: the one cell it writes, its index; every other cell and register
stays. -/
def Obligations.SampleAdvancesAllpasses : Prop :=
  ∀ s t : State, exec .sample s = .next t → s.cfg = true →
    (∀ a : Fin 2, memWf s.aps[a].buf = true) →
    let x0 := combMean s.combs (voiceSum actual s)
    let d0 := memRead s.aps[0].buf s.aps[0].idx
    let x1 := fadd (fmul (fneg x0) s.aps[0].feedback) d0
    let d1 := memRead s.aps[1].buf s.aps[1].idx
    memRead t.aps[0].buf s.aps[0].idx = fadd x0 (fmul d0 s.aps[0].feedback) ∧
    memRead t.aps[1].buf s.aps[1].idx = fadd x1 (fmul d1 s.aps[1].feedback) ∧
    ∀ a : Fin 2,
      (∀ b, b ≠ s.aps[a].idx → memRead t.aps[a].buf b = memRead s.aps[a].buf b) ∧
      t.aps[a].idx = (s.aps[a].idx + 1) % s.aps[a].len ∧ t.aps[a].len = s.aps[a].len ∧
      t.aps[a].feedback = s.aps[a].feedback

/-- R226: what the reverb returns, from the cells at the lines' indices. -/
def Obligations.ReverbMix : Prop :=
  ∀ (rv : ReverbRegs) (combs : Vector Comb 4) (aps : Vector Allpass 2) (x : F32),
    let y := fun k : Fin 4 => memRead combs[k].buf combs[k].idx
    let c0 := fdiv (fadd (fadd (fadd (fadd f0 (y 0)) (y 1)) (y 2)) (y 3)) f4
    let c1 := fadd (fmul (fneg c0) aps[0].feedback) (memRead aps[0].buf aps[0].idx)
    let c2 := fadd (fmul (fneg c1) aps[1].feedback) (memRead aps[1].buf aps[1].idx)
    reverbOut rv combs aps x = fadd (fmul rv.dry x) (fmul rv.wet c2)

/-- R236: with wet 0.0 and dry 1.0 the reverb's output equals its input, and is the very pattern for an input that is
not zero. -/
def Obligations.DryOnlyReverbIsTransparent : Prop :=
  ∀ (rv : ReverbRegs) (combs : Vector Comb 4) (aps : Vector Allpass 2) (x : F32),
    rv.wet = f0 → rv.dry = f1 → isFinite x = true → isFinite (secondAllpassOut combs aps x) = true →
      feq (reverbOut rv combs aps x) x = true ∧ (fmag x ≠ 0 → reverbOut rv combs aps x = x)

/-- R231, R232, R230: SET_ROOM and SET_DAMP write their own register and recompute both fields of all four combs, from the
new value of that register and the held value of the other, and write nothing else. -/
def Obligations.RoomAndDampRecomputeCombs : Prop :=
  (∀ (f : F32) (s : State), s.cfg = true → isNaN f = false →
    ∃ t, exec (.setRoom f) s = .next t ∧
      t = { s with rv := { s.rv with roomSize := fclamp f f0 f1 }, combs := t.combs } ∧
      ∀ k : Fin 4, t.combs[k] =
        { s.combs[k] with feedback := fadd (fmul (fclamp f f0 f1) f0p6) f0p4, damp := s.rv.damping }) ∧
  (∀ (f : F32) (s : State), s.cfg = true → isNaN f = false →
    ∃ t, exec (.setDamp f) s = .next t ∧
      t = { s with rv := { s.rv with damping := fclamp f f0 f1 }, combs := t.combs } ∧
      ∀ k : Fin 4, t.combs[k] =
        { s.combs[k] with feedback := fadd (fmul s.rv.roomSize f0p6) f0p4, damp := fclamp f f0 f1 }) ∧
  (∀ (f : F32) (s : State), s.cfg = true → isNaN f = true →
    exec (.setRoom f) s = .next { s with errNan := true } ∧
    exec (.setDamp f) s = .next { s with errNan := true }) ∧
  (∀ (f : F32) (s : State), s.cfg = false →
    exec (.setRoom f) s = .next { s with errUncfg := true } ∧
    exec (.setDamp f) s = .next { s with errUncfg := true }) ∧
  MalformedOnlyRaises .setRoom ∧ MalformedOnlyRaises .setDamp

/-- R233, R234, R235: SET_WET, SET_DRY and SET_WIDTH each write their own register and nothing else. -/
def Obligations.MixSettersWriteOneRegister : Prop :=
  (∀ (f : F32) (s : State), s.cfg = true → isNaN f = false →
    exec (.setWet f) s = .next { s with rv := { s.rv with wet := fclamp f f0 f1 } } ∧
    exec (.setDry f) s = .next { s with rv := { s.rv with dry := fclamp f f0 f1 } } ∧
    exec (.setWidth f) s = .next { s with rv := { s.rv with width := fclamp f f0 f1 } }) ∧
  (∀ (f : F32) (s : State), s.cfg = true → isNaN f = true →
    exec (.setWet f) s = .next { s with errNan := true } ∧
    exec (.setDry f) s = .next { s with errNan := true } ∧
    exec (.setWidth f) s = .next { s with errNan := true }) ∧
  (∀ (f : F32) (s : State), s.cfg = false →
    exec (.setWet f) s = .next { s with errUncfg := true } ∧
    exec (.setDry f) s = .next { s with errUncfg := true } ∧
    exec (.setWidth f) s = .next { s with errUncfg := true }) ∧
  MalformedOnlyRaises .setWet ∧ MalformedOnlyRaises .setDry ∧ MalformedOnlyRaises .setWidth

/-- R235: the width register is inert: a block with another width takes the same steps, with equal OUT and STATUS. -/
def Obligations.WidthIsInert : Prop :=
  ∀ s s' t : State, EqButWidth s s' → step s = .next t →
    ∃ t', step s' = .next t' ∧ EqButWidth t t' ∧ readOut t = readOut t' ∧ readStatus t = readStatus t'

/-! ### Limiter -/

/-- R266: the follower, the gain and OUT under SAMPLE; the limiter's other registers stay. -/
def Obligations.SampleRunsLimiter : Prop :=
  ∀ s t : State, exec .sample s = .next t → s.cfg = true →
    let r := reverbOut s.rv s.combs s.aps (voiceSum actual s)
    let c := if fgt (fabs r) s.lim.env = true then s.lim.attackCoef else s.lim.releaseCoef
    let env := fadd (fmul c s.lim.env) (fmul (fsub f1 c) (fabs r))
    let gr := if fgt env s.lim.threshLin = true then fdiv s.lim.threshLin env else f1
    t.lim = { s.lim with env := env, gr := gr } ∧ t.out = fmul (fmul r gr) s.lim.makeupLin

/-- R266: the gain never exceeds 1, where the threshold is not negative and the follower is a number. -/
def Obligations.GainNeverAboveOne : Prop :=
  ∀ (lim : LimiterRegs) (x : F32), fle f0 lim.threshLin = true → isNaN (followEnv lim x) = false →
    fle (limiterAfter lim x).gr f1 = true

/-- R266: while the updated envelope is not above the threshold the output is exactly the input times the makeup. -/
def Obligations.BelowThresholdOnlyMakeup : Prop :=
  ∀ (lim : LimiterRegs) (x : F32), isNaN x = false → fgt (followEnv lim x) lim.threshLin = false →
    limiterOut lim x = fmul x lim.makeupLin

/-- R270, R273: SET_THRESH and SET_MAKEUP write the clamped decibels and their linear value and nothing else. -/
def Obligations.DecibelSettersWritePair : Prop :=
  (∀ (f : F32) (s : State), s.cfg = true → isNaN f = false →
    exec (.setThresh f) s = .next { s with lim := { s.lim with
      threshDb := fclamp f fm60 f0, threshLin := actual.pow f10 (fdiv (fclamp f fm60 f0) f20) } } ∧
    exec (.setMakeup f) s = .next { s with lim := { s.lim with
      makeupDb := fclamp f f0 f30, makeupLin := actual.pow f10 (fdiv (fclamp f f0 f30) f20) } }) ∧
  (∀ (f : F32) (s : State), s.cfg = true → isNaN f = true →
    exec (.setThresh f) s = .next { s with errNan := true } ∧
    exec (.setMakeup f) s = .next { s with errNan := true }) ∧
  (∀ (f : F32) (s : State), s.cfg = false →
    exec (.setThresh f) s = .next { s with errUncfg := true } ∧
    exec (.setMakeup f) s = .next { s with errUncfg := true }) ∧
  MalformedOnlyRaises .setThresh ∧ MalformedOnlyRaises .setMakeup

/-- R271, R272: SET_ATTACK and SET_RELEASE write the clamped time and its coefficient and nothing else. -/
def Obligations.TimeSettersWritePair : Prop :=
  (∀ (f : F32) (s : State), s.cfg = true → isNaN f = false →
    (let t := fclamp f actual.attMin actual.attMax
     exec (.setAttack f) s = .next { s with lim := { s.lim with
       attackTime := t, attackCoef := actual.exp (fdiv (fneg f1) (fmul s.srF t)) } }) ∧
    (let t := fclamp f actual.relMin actual.relMax
     exec (.setRelease f) s = .next { s with lim := { s.lim with
       releaseTime := t, releaseCoef := actual.exp (fdiv (fneg f1) (fmul s.srF t)) } })) ∧
  (∀ (f : F32) (s : State), s.cfg = true → isNaN f = true →
    exec (.setAttack f) s = .next { s with errNan := true } ∧
    exec (.setRelease f) s = .next { s with errNan := true }) ∧
  (∀ (f : F32) (s : State), s.cfg = false →
    exec (.setAttack f) s = .next { s with errUncfg := true } ∧
    exec (.setRelease f) s = .next { s with errUncfg := true }) ∧
  MalformedOnlyRaises .setAttack ∧ MalformedOnlyRaises .setRelease

/-! ### Rate and construction -/

/-- R295, R296, R341: SET_RATE of an admitted rate that is new, or the first, writes every construction value and keeps
the error flags; SET_RATE of the current rate changes nothing; of a rate out of range it only raises ErrRange. -/
def Obligations.SetRateConstructs : Prop :=
  (∀ (u : BitVec 32) (s : State), 8000 ≤ u.toNat → u.toNat ≤ 192000 → (s.cfg = false ∨ u ≠ s.sr) →
    let srF := u32tof32 u.toNat
    let c := actual
    ∃ t, exec (.setRate u) s = .next t ∧
      t = { s with cfg := true, sr := u, srF := srF, out := f0, voices := t.voices, rv := t.rv,
                   combs := t.combs, aps := t.aps, lim := t.lim } ∧
      (∀ i : Fin 8, t.voices[i] =
        { active := false, key := none, phaseDelta := f0, phase := f0, detunedPhase := f0,
          notePhase := f0, attackPhase := f0, vnorm := f0,
          env := { state := .idle, level := f0, sustainLevel := c.sustainLevel, velocityLevel := f0,
                   attackRate := c.attackRate srF, decayRate := c.decayRate srF,
                   releaseRate := c.releaseRate srF, sustainDecayRate := f0 } }) ∧
      t.rv = { roomSize := c.room0, damping := c.damp0, wet := c.wet0, dry := c.dry0,
               width := c.width0 } ∧
      (∀ k : Fin 4, t.combs[k] =
        { len := roundHalfAway (fmul (fmul #v[f29p7, f37p1, f41p1, f43p7][k] f0p001) srF), idx := 0,
          feedback := f0p84, damp := f0p2, store := f0, buf := [] }) ∧
      (∀ a : Fin 2, t.aps[a] =
        { len := roundHalfAway (fmul (fmul #v[f5, f1p7][a] f0p001) srF), idx := 0, feedback := f0p5,
          buf := [] }) ∧
      t.lim =
        { threshDb := c.thresh0, threshLin := c.pow f10 (fdiv c.thresh0 f20),
          attackTime := c.attack0, releaseTime := c.release0,
          attackCoef := c.exp (fdiv (fneg f1) (fmul srF c.attack0)),
          releaseCoef := c.exp (fdiv (fneg f1) (fmul srF c.release0)),
          makeupDb := c.makeup0, makeupLin := c.pow f10 (fdiv c.makeup0 f20), env := f0, gr := f1 }) ∧
  (∀ s : State, s.cfg = true → 8000 ≤ s.sr.toNat → s.sr.toNat ≤ 192000 →
    exec (.setRate s.sr) s = .next s) ∧
  (∀ (u : BitVec 32) (s : State), (u.toNat < 8000 ∨ 192000 < u.toNat) →
    exec (.setRate u) s = .next { s with errRange := true }) ∧
  MalformedOnlyRaises .setRate

/-- R295: nothing of the previous units, rate or OUT survives a construction: two blocks with equal error flags and
pending words are built into one and the same state. -/
def Obligations.ConstructionForgetsUnits : Prop :=
  ∀ (s s' : State) (u : BitVec 32), admittedRate u = true →
    (s.cfg = false ∨ u ≠ s.sr) → (s'.cfg = false ∨ u ≠ s'.sr) →
    s.errIllegal = s'.errIllegal → s.errUncfg = s'.errUncfg → s.errRange = s'.errRange →
    s.errNan = s'.errNan → s.stream = s'.stream →
      exec (.setRate u) s = exec (.setRate u) s'

/-- R221, R303: at every admitted rate each delay line has at least 14 and at most 8390 cells. -/
def Obligations.DelayLengthBounds : Prop :=
  ∀ u : BitVec 32, admittedRate u = true →
    (∀ k : Fin 4, 14 ≤ delayLen combMs[k] (rateF32 u) ∧ delayLen combMs[k] (rateF32 u) ≤ 8390) ∧
    (∀ a : Fin 2, 14 ≤ delayLen apMs[a] (rateF32 u) ∧ delayLen apMs[a] (rateF32 u) ≤ 8390)

/-- R33: the binary32 form of an admitted rate is exact. -/
def Obligations.RateConversionIsExact : Prop :=
  ∀ u : BitVec 32, admittedRate u = true → fint (rateF32 u) = (u.toNat : Int) * (unitsPerOne : Int)

/-! ### SAMPLE -/

/-- R291: with units, and every line's index in its line, SAMPLE answers the frame, and touches nothing else. -/
def Obligations.SampleProducesFrame : Prop :=
  (∀ s : State, s.cfg = true → (∀ k : Fin 4, s.combs[k].idx < s.combs[k].len) →
    (∀ a : Fin 2, s.aps[a].idx < s.aps[a].len) →
    let y := fun i : Fin 8 => (voiceProcess actual s.srF i s.voices[i]).2
    let sum := fadd (fadd (fadd (fadd (fadd (fadd (fadd (fadd f0 (y 0)) (y 1)) (y 2)) (y 3)) (y 4)) (y 5))
      (y 6)) (y 7)
    let r := reverbOut s.rv s.combs s.aps sum
    ∃ t, exec .sample s = .next t ∧
      t = { s with voices := t.voices, combs := t.combs, aps := t.aps,
                   lim := limiterAfter s.lim r, out := limiterOut s.lim r } ∧
      (∀ i : Fin 8, t.voices[i] = (voiceProcess actual s.srF i s.voices[i]).1) ∧
      (∀ k : Fin 4, t.combs[k] = (combProcess s.combs[k] sum).1) ∧
      t.aps[0] = (allpassProcess s.aps[0] (combMean s.combs sum)).1 ∧
      t.aps[1] = (allpassProcess s.aps[1] (firstAllpassOut s.combs s.aps sum)).1) ∧
  (∀ s : State, s.cfg = false → exec .sample s = .next { s with errUncfg := true }) ∧
  MalformedOnlyRaises .sample

/-- Log 9, the model's choice (R82 says the index is always below the length): SAMPLE stops with the fault of its name
where a line's index names no cell. -/
def Obligations.SampleFaultsOutsideLine : Prop :=
  ∀ s : State, s.cfg = true →
    ((∃ k : Fin 4, s.combs[k].len ≤ s.combs[k].idx) ∨ (∃ a : Fin 2, s.aps[a].len ≤ s.aps[a].idx)) →
      exec .sample s = .fault .delayLineIndex

/-- R292: silent units stay silent: SAMPLE writes OUT = +0.0 and leaves the units silent, so every frame is +0.0. -/
def Obligations.SilenceStaysSilent : Prop :=
  ∀ s : State, Silent s → ∃ t, exec .sample s = .next t ∧ t.out = f0 ∧ Silent t

/-! ### Invariants -/

/-- The power-on state meets every invariant below (R340; the units' values are the model's, log 2). -/
def Obligations.ResetMeetsInvariants : Prop :=
  LinesOk State.reset ∧ VoicesOk State.reset ∧ PowerOnOk State.reset ∧
  ParamsLegal actual State.reset ∧ RateOk State.reset ∧ LimiterCached actual State.reset ∧
  CombsCached State.reset ∧ VoicesCached actual State.reset ∧ TrackersOk State.reset ∧
  AccumulatorsOk State.reset

/-- R80, R82, log 10: every step keeps each delay line's memory in canonical form and inside the line, and its index
below its length. -/
def Obligations.StepKeepsDelayLines : Prop :=
  ∀ s t : State, LinesOk s → step s = .next t → LinesOk t

/-- R202, R203, R37: every step keeps what a voice's flag, key and envelope state say together. -/
def Obligations.StepKeepsVoiceStates : Prop :=
  ∀ s t : State, VoicesOk s → step s = .next t → VoicesOk t

/-- R32 to R34, R340: until the first construction there is no rate and no sound. -/
def Obligations.StepKeepsPowerOnState : Prop :=
  ∀ s t : State, PowerOnOk s → step s = .next t → PowerOnOk t

/-- R40, R43: every step keeps the parameter registers in their legal ranges. -/
def Obligations.StepKeepsParametersLegal : Prop :=
  ∀ s t : State, ParamsLegal actual s → step s = .next t → ParamsLegal actual t

/-- R33, R41, R42, R43, R230, R165, R38: every step keeps each register that is computed from others equal to what the
rules compute it to be. -/
def Obligations.StepKeepsComputedRegisters : Prop :=
  ∀ s t : State, RateOk s → LimiterCached actual s → CombsCached s → VoicesCached actual s →
    step s = .next t → RateOk t ∧ LimiterCached actual t ∧ CombsCached t ∧ VoicesCached actual t

/-- R37, R169: every step keeps the attack tracker of every voice in [0, 1), and with it what that rests on: an admitted
rate and its value. -/
def Obligations.StepKeepsAttackTrackers : Prop :=
  ∀ s t : State, TrackersOk s → step s = .next t → TrackersOk t

/-- R310: nothing stops the block: from sound delay lines every step answers a next state, whatever the word. -/
def Obligations.NoWordStopsTheBlock : Prop :=
  ∀ s : State, LinesOk s → ∃ t, step s = .next t

/-! ### Who writes what -/

/-- R32, R33: CFG, SR and SR_F are written by SET_RATE alone. -/
def Obligations.OnlySetRateWritesRate : Prop :=
  ∀ s t : State, step s = .next t → (t.cfg ≠ s.cfg ∨ t.sr ≠ s.sr ∨ t.srF ≠ s.srF) →
    ∃ (w : Word) (rest : List Word) (u : BitVec 32), s.stream = w :: rest ∧ decode w = .ok (.setRate u)

/-- R34, R84: OUT and the delay lines (cells, indices, lengths) are written by SAMPLE and SET_RATE alone. -/
def Obligations.OnlySampleAndSetRateWriteOutAndLines : Prop :=
  ∀ s t : State, step s = .next t →
    (t.out = s.out ∧
      (∀ k : Fin 4, t.combs[k].buf = s.combs[k].buf ∧ t.combs[k].idx = s.combs[k].idx ∧
        t.combs[k].len = s.combs[k].len ∧ t.combs[k].store = s.combs[k].store) ∧
      (∀ a : Fin 2, t.aps[a] = s.aps[a])) ∨
    ∃ (w : Word) (rest : List Word) (i : Instr), s.stream = w :: rest ∧ decode w = .ok i ∧
      (i = .sample ∨ ∃ u, i = .setRate u)

/-! ### The host's play -/

/-- R331, R297: a host that plays with a refused rate before any good one gets zeros, whatever the events and the errors
so far: the notes and every SAMPLE only raise ErrUncfg, and OUT stays +0.0. -/
def Obligations.PlayWithoutRateIsZeros : Prop :=
  ∀ (u : BitVec 32) (events : List NoteEvent) (channels frames : Nat) (s : State),
    (u.toNat < 8000 ∨ 192000 < u.toNat) → s.cfg = false → s.out = f0 → s.stream = [] →
    play u events channels frames s =
      some ({ s with errRange := true,
                     errUncfg := s.errUncfg || !events.isEmpty || decide (0 < frames) },
        List.replicate (frames * channels) f0)
end

