-- ==== Sys2Proof/Laws/Encoding.lean ====
section
/-! SUPPORT. Laws/Encoding.lean: the fixed bits of the words each format's encoder writes (spec/30_encoding.md R101 to
R105). -/

namespace Sys2Proof

theorem opcField_pattern (op : Op) : opcField op.pattern = op.code := by
  unfold opcField Op.pattern placeAt
  ext i hi
  interval_cases i <;> simp

theorem opcField_encodeZ (op : Op) : opcField (encodeZ op) = op.code := opcField_pattern op

theorem opcField_encodeN (op : Op) (ch : Channel) (note : Note) (vel : Velocity) :
    opcField (encodeN op ch note vel) = op.code := by
  unfold opcField encodeN Op.pattern placeAt
  ext i hi
  interval_cases i <;> simp

theorem opcField_encodeImm (op : Op) (imm : BitVec 32) : opcField (encodeImm op imm) = op.code := by
  unfold opcField encodeImm Op.pattern placeAt
  ext i hi
  interval_cases i <;> simp

theorem mask_encodeZ (op : Op) : encodeZ op &&& Format.mask .z = op.pattern := by
  unfold encodeZ Format.mask Op.pattern placeAt
  ext i hi
  interval_cases i <;> simp

theorem mask_encodeN (op : Op) (ch : Channel) (note : Note) (vel : Velocity) :
    encodeN op ch note vel &&& Format.mask .n = op.pattern := by
  unfold encodeN Format.mask Op.pattern placeAt
  ext i hi
  interval_cases i <;> simp

theorem mask_encodeF (op : Op) (imm : BitVec 32) : encodeImm op imm &&& Format.mask .f = op.pattern := by
  unfold encodeImm Format.mask Op.pattern placeAt
  ext i hi
  interval_cases i <;> simp

theorem mask_encodeU (op : Op) (imm : BitVec 32) : encodeImm op imm &&& Format.mask .u = op.pattern :=
  mask_encodeF op imm

/-- The opcode map finds each row by its own opcode (R105). -/
theorem opOfCode_code (op : Op) : opOfCode op.code = some op := by
  cases op <;> decide

/-- A row found by an opcode has that opcode (R105). -/
theorem code_of_opOfCode {code : BitVec 8} {op : Op} (h : opOfCode code = some op) : op.code = code := by
  have := List.find?_some h
  simpa using this

end Sys2Proof
end

