-- ==== Sys2Proof/Laws/Float.lean ====
section
/-! SUPPORT. Laws/Float.lean: what rounding does. A finite pattern's units round back to the pattern, rounding is
monotone, and the order of patterns is the order of values (spec/00_scope.md R14, R16). -/

namespace Sys2Proof.Machine

/-! ### Packing -/

theorem fmag_lt (x : F32) : fmag x < 2 ^ 31 := Nat.mod_lt _ (by decide)

theorem fpack_toNat (neg : Bool) {m : Nat} (h : m < 2 ^ 31) :
    (fpack neg m).toNat = m + if neg then 2 ^ 31 else 0 := by
  unfold fpack
  rw [BitVec.toNat_ofNat]
  apply Nat.mod_eq_of_lt
  cases neg <;> simp <;> omega

@[simp] theorem fmag_fpack (neg : Bool) {m : Nat} (h : m < 2 ^ 31) : fmag (fpack neg m) = m := by
  unfold fmag
  rw [fpack_toNat neg h]
  cases neg <;> simp <;> omega

@[simp] theorem fsign_fpack (neg : Bool) {m : Nat} (h : m < 2 ^ 31) : fsign (fpack neg m) = neg := by
  unfold fsign
  rw [fpack_toNat neg h]
  cases neg
  · simpa using h
  · simp

theorem fpack_fields (x : F32) : fpack (fsign x) (fmag x) = x := by
  apply BitVec.eq_of_toNat_eq
  rw [fpack_toNat _ (fmag_lt x)]
  have h := x.isLt
  unfold fsign fmag
  simp only [decide_eq_true_eq]
  split_ifs <;> omega

/-! ### Nearest natural number -/

theorem rne_spec (n : Nat) {d : Nat} (hd : 0 < d) :
    2 * n ≤ (2 * rne n d + 1) * d ∧ 2 * rne n d * d ≤ 2 * n + d ∧
      (2 * n = (2 * rne n d + 1) * d ∨ 2 * rne n d * d = 2 * n + d → rne n d % 2 = 0) := by
  have hn := Nat.div_add_mod n d
  have hr := Nat.mod_lt n hd
  unfold rne
  generalize n / d = q at *
  generalize n % d = r at *
  subst hn
  split_ifs with h1 h2
  · refine ⟨by nlinarith, by nlinarith, ?_⟩
    rintro (h | h)
    · exfalso; nlinarith
    · exfalso; nlinarith
  · refine ⟨by nlinarith, by nlinarith, ?_⟩
    rintro (h | h)
    · exfalso; nlinarith
    · exfalso; nlinarith
  · have ht : 2 * r = d := by omega
    rcases Nat.mod_two_eq_zero_or_one q with h | h
    · rw [h]
      refine ⟨by nlinarith, by nlinarith, fun _ => by omega⟩
    · rw [h]
      refine ⟨by nlinarith, by nlinarith, fun _ => by omega⟩

theorem rne_mono {n₁ d₁ n₂ d₂ : Nat} (h₁ : 0 < d₁) (h₂ : 0 < d₂) (h : n₁ * d₂ ≤ n₂ * d₁) :
    rne n₁ d₁ ≤ rne n₂ d₂ := by
  obtain ⟨-, lo₁, tie₁⟩ := rne_spec n₁ h₁
  obtain ⟨hi₂, -, tie₂⟩ := rne_spec n₂ h₂
  by_contra hlt
  push Not at hlt
  generalize rne n₁ d₁ = r₁ at *
  generalize rne n₂ d₂ = r₂ at *
  obtain ⟨k, rfl⟩ : ∃ k, r₁ = r₂ + 1 + k := ⟨r₁ - (r₂ + 1), by omega⟩
  have a : (2 * r₂ + 1 + 2 * k) * (d₁ * d₂) ≤ 2 * n₁ * d₂ := by nlinarith
  have b : 2 * n₂ * d₁ ≤ (2 * r₂ + 1) * (d₁ * d₂) := by nlinarith
  have hdd : 0 < d₁ * d₂ := Nat.mul_pos h₁ h₂
  have hk : k = 0 := by
    by_contra hk
    have : 1 ≤ k := by omega
    nlinarith
  subst hk
  have e₁ : 2 * (r₂ + 1 + 0) * d₁ = 2 * n₁ + d₁ := by
    apply le_antisymm lo₁
    by_contra hc
    push Not at hc
    nlinarith
  have e₂ : 2 * n₂ = (2 * r₂ + 1) * d₂ := by
    apply le_antisymm hi₂
    by_contra hc
    push Not at hc
    nlinarith
  have p₁ := tie₁ (Or.inr e₁)
  have p₂ := tie₂ (Or.inl e₂)
  omega

theorem rne_of_dvd (m : Nat) {d : Nat} (hd : 0 < d) : rne (m * d) d = m := by
  simp [rne, hd]

/-! ### Rounding to a pattern -/

theorem roundMag_le (n d : Nat) : roundMag n d ≤ 0x7F800000 := Nat.min_le_left _ _

theorem roundMag_lt (n d : Nat) : roundMag n d < 2 ^ 31 :=
  lt_of_le_of_lt (roundMag_le n d) (by decide)

/-- Units rounded from a finite pattern's units give the pattern back (R14: rounding is exact where it can be). -/
theorem roundMag_funits {x : F32} (h : isFinite x = true) : roundMag (funits x) 1 = fmag x := by
  have hlt : fmag x < 0x7F800000 := by simpa [isFinite] using h
  have hm := Nat.div_add_mod (fmag x) (2 ^ 23)
  have hf := Nat.mod_lt (fmag x) (show 0 < 2 ^ 23 by decide)
  unfold roundMag funits
  generalize fmag x = m at *
  generalize hE : m / 2 ^ 23 = e at *
  generalize m % 2 ^ 23 = f at *
  simp only [Nat.div_one]
  split_ifs with he
  · subst he
    have hk : Nat.log2 f - 23 = 0 := by
      rcases Nat.eq_zero_or_pos f with h0 | h0
      · subst h0; rfl
      · have := (Nat.log2_lt (by omega)).2 (show f < 2 ^ 24 by omega)
        omega
    simp only [hk, pow_zero, Nat.mul_one, Nat.zero_mul, Nat.zero_add]
    have := rne_of_dvd f (show 0 < 1 by decide)
    rw [Nat.mul_one] at this
    rw [this]
    omega
  · obtain ⟨j, rfl⟩ : ∃ j, e = j + 1 := ⟨e - 1, by omega⟩
    have hlog : Nat.log2 ((2 ^ 23 + f) * 2 ^ j) = 23 + j := by
      have hpos : 0 < 2 ^ j := Nat.two_pow_pos j
      have hne : (2 ^ 23 + f) * 2 ^ j ≠ 0 := by positivity
      have hlo : 23 + j ≤ Nat.log2 ((2 ^ 23 + f) * 2 ^ j) := by
        rw [Nat.le_log2 hne, Nat.pow_add]
        exact Nat.mul_le_mul_right _ (by omega)
      have hhi : Nat.log2 ((2 ^ 23 + f) * 2 ^ j) < 23 + j + 1 := by
        rw [Nat.log2_lt hne, show 23 + j + 1 = 24 + j by omega, Nat.pow_add]
        exact Nat.mul_lt_mul_of_pos_right (by omega) hpos
      omega
    simp only [Nat.add_sub_cancel, hlog, Nat.add_sub_cancel_left, Nat.one_mul]
    rw [rne_of_dvd _ (Nat.two_pow_pos j)]
    omega

/-- Rounding is monotone in the exact value. -/
theorem roundMag_mono {n₁ d₁ n₂ d₂ : Nat} (h₁ : 0 < d₁) (h₂ : 0 < d₂) (h : n₁ * d₂ ≤ n₂ * d₁) :
    roundMag n₁ d₁ ≤ roundMag n₂ d₂ := by
  have hq : n₁ / d₁ ≤ n₂ / d₂ := by
    rw [Nat.le_div_iff_mul_le h₂]
    have := Nat.div_mul_le_self n₁ d₁
    by_contra hc
    push Not at hc
    nlinarith
  have hk : Nat.log2 (n₁ / d₁) ≤ Nat.log2 (n₂ / d₂) := by
    rcases Nat.eq_zero_or_pos (n₁ / d₁) with h0 | h0
    · rw [h0]; simp
    · rw [Nat.le_log2 (by omega)]
      exact le_trans (Nat.log2_self_le (by omega)) hq
  unfold roundMag
  simp only
  apply min_le_min_left
  rcases Nat.lt_or_ge (Nat.log2 (n₁ / d₁) - 23) (Nat.log2 (n₂ / d₂) - 23) with hlt | hge
  · -- a lower binade: its patterns end where the next one's begin
    generalize hk₁ : Nat.log2 (n₁ / d₁) - 23 = k₁ at *
    generalize hk₂ : Nat.log2 (n₂ / d₂) - 23 = k₂ at *
    have hup : rne n₁ (d₁ * 2 ^ k₁) ≤ 2 ^ 24 := by
      have hb : n₁ / d₁ < 2 ^ (24 + k₁) := by
        rcases Nat.eq_zero_or_pos (n₁ / d₁) with h0 | h0
        · rw [h0]; positivity
        · exact (Nat.log2_lt (by omega)).1 (by omega)
      have hb' : n₁ < 2 ^ (24 + k₁) * d₁ := (Nat.div_lt_iff_lt_mul h₁).1 hb
      have hr := rne_of_dvd (2 ^ 24) (show 0 < d₁ * 2 ^ k₁ by positivity)
      rw [← hr]
      apply rne_mono (by positivity) (by positivity)
      apply Nat.mul_le_mul_right
      rw [Nat.pow_add] at hb'
      nlinarith
    have hdown : 2 ^ 23 ≤ rne n₂ (d₂ * 2 ^ k₂) := by
      have hb : 2 ^ (23 + k₂) ≤ n₂ / d₂ := by
        have hne : n₂ / d₂ ≠ 0 := by
          intro h0
          rw [h0] at hk₂
          simp at hk₂
          omega
        exact le_trans (Nat.pow_le_pow_right (by decide) (by omega)) (Nat.log2_self_le hne)
      have hb' : 2 ^ (23 + k₂) * d₂ ≤ n₂ := (Nat.le_div_iff_mul_le h₂).1 hb
      have hr := rne_of_dvd (2 ^ 23) (show 0 < d₂ * 2 ^ k₂ by positivity)
      rw [← hr]
      apply rne_mono (by positivity) (by positivity)
      apply Nat.mul_le_mul_right
      rw [Nat.pow_add] at hb'
      nlinarith
    have : k₁ + 1 ≤ k₂ := hlt
    nlinarith
  · have hkk : Nat.log2 (n₁ / d₁) - 23 = Nat.log2 (n₂ / d₂) - 23 := by omega
    rw [hkk]
    generalize Nat.log2 (n₂ / d₂) - 23 = k
    apply Nat.add_le_add_left
    apply rne_mono (by positivity) (by positivity)
    calc n₁ * (d₂ * 2 ^ k) = n₁ * d₂ * 2 ^ k := by ring
      _ ≤ n₂ * d₁ * 2 ^ k := Nat.mul_le_mul_right _ h
      _ = n₂ * (d₁ * 2 ^ k) := by ring

/-! ### Order -/

/-- The units of finite patterns grow strictly with the magnitude. -/
theorem funits_lt {a b : F32} (hb : isFinite b = true) (h : fmag a < fmag b) :
    funits a < funits b := by
  by_contra hc
  push Not at hc
  have ha : isFinite a = true := by
    have : fmag b < 0x7F800000 := by simpa [isFinite] using hb
    simp [isFinite]; omega
  have := roundMag_mono (n₁ := funits b) (n₂ := funits a) (d₁ := 1) (d₂ := 1)
    (by decide) (by decide) (by omega)
  rw [roundMag_funits ha, roundMag_funits hb] at this
  omega

/-- Equal magnitudes have equal units. -/
theorem funits_congr {a b : F32} (h : fmag a = fmag b) : funits a = funits b := by
  unfold funits; rw [h]

/-- The order of finite patterns is the order of their values (R14). -/
theorem forder_lt_iff {a b : F32} (ha : isFinite a = true) (hb : isFinite b = true) :
    forder a < forder b ↔ fint a < fint b := by
  have z : ∀ x : F32, fmag x = 0 → funits x = 0 := fun x h => by simp [funits, h]
  have p : ∀ x : F32, isFinite x = true → 0 < fmag x → 0 < funits x := fun x hx h => by
    have := funits_lt (a := f0) hx (by simpa [fmag, f0] using h)
    omega
  unfold forder fint
  rcases lt_trichotomy (fmag a) (fmag b) with h | h | h
  · have := funits_lt hb h
    have := p b hb (by omega)
    split_ifs <;> omega
  · have := funits_congr h
    have := z a
    have := p a ha
    split_ifs <;> omega
  · have := funits_lt ha h
    have := p a ha (by omega)
    split_ifs <;> omega

theorem forder_le_iff {a b : F32} (ha : isFinite a = true) (hb : isFinite b = true) :
    forder a ≤ forder b ↔ fint a ≤ fint b := by
  have := forder_lt_iff hb ha
  omega

/-! ### Clamp (R16) -/

theorem fle_refl {x : F32} (h : isNaN x = false) : fle x x = true := by simp [fle, h]

/-- A clamped value lies in the range. -/
theorem fclamp_inRange {v lo hi : F32} (hv : isNaN v = false) (h : fle lo hi = true) :
    inRange lo hi (fclamp v lo hi) = true := by
  have hlo : isNaN lo = false := by simp [fle] at h; simp [h]
  have hhi : isNaN hi = false := by simp [fle] at h; simp [h]
  have ho : forder lo ≤ forder hi := by simp [fle] at h; exact h.2
  unfold fclamp
  split_ifs with h1 h2
  · simp [inRange, fle_refl hlo, h]
  · simp [inRange, fle_refl hhi, h]
  · simp [flt, fgt, hv, hlo, hhi] at h1 h2
    simp [inRange, fle, hv, hlo, hhi, h1, h2]

/-! ### The configuration's limits (R10, R11) -/

theorem inRange_forceRange {lo hi x : F32} (h : fle lo hi = true) :
    inRange lo hi (forceRange lo hi x) = true := by
  have hlo : isNaN lo = false := by simp [fle] at h; simp [h]
  unfold forceRange
  split_ifs with hx
  · exact hx
  · simp [inRange, fle_refl hlo, h]

theorem fgt_forcePositive (x : F32) : fgt (forcePositive x) f0 = true := by
  unfold forcePositive
  split_ifs with h
  · exact h
  · decide

theorem fle_forceAtLeast {lo x : F32} (h : isNaN lo = false) : fle lo (forceAtLeast lo x) = true := by
  unfold forceAtLeast
  split_ifs with hx
  · exact hx
  · exact fle_refl h

theorem isNaN_forcePositive (x : F32) : isNaN (forcePositive x) = false := by
  have := fgt_forcePositive x
  simp [fgt, flt] at this
  exact this.1.2

/-- Imposing the limits makes any configuration legal. -/
theorem legal_legalize (c : Config) : legal (legalize c) = true := by
  have h01 : fle f0 f1 = true := by decide
  have h60 : fle fm60 f0 = true := by decide
  have h30 : fle f0 f30 = true := by decide
  have ha := fle_forceAtLeast (x := c.attMax) (isNaN_forcePositive c.attMin)
  have hr := fle_forceAtLeast (x := c.relMax) (isNaN_forcePositive c.relMin)
  simp [legal, legalize, inRange_forceRange h01, inRange_forceRange h60, inRange_forceRange h30,
    fgt_forcePositive, ha, hr, inRange_forceRange ha, inRange_forceRange hr]

/-- A legal configuration is left as it is. -/
theorem legalize_of_legal {c : Config} (h : legal c = true) : legalize c = c := by
  simp only [legal, Bool.and_eq_true] at h
  simp [legalize, forceRange, forcePositive, forceAtLeast, h]

/-- The machine's configuration has the limits of R10 and R11. -/
theorem actual_legal : legal actual = true := legal_legalize _

end Sys2Proof.Machine
end

