-- ==== Sys2Proof/Laws/Memory.lean ====
section
/-! SUPPORT. Laws/Memory.lean: the laws of a delay-line memory (spec/20_memory.md R82, R83): reading what was written,
every other cell unchanged, and the canonical form kept (log 10). -/

namespace Sys2Proof.Machine

theorem memRead_nil (a : Nat) : memRead [] a = f0 := rfl

/-- A memory whose listed cells start above `a` reads blank at `a`. -/
theorem memRead_below {m : DelayMem} {lo a : Nat} (h : memWfFrom lo m = true) (ha : a < lo) :
    memRead m a = blankCell := by
  induction m generalizing lo with
  | nil => rfl
  | cons c m ih =>
    obtain ⟨k, v⟩ := c
    simp only [memWfFrom, Bool.and_eq_true, decide_eq_true_eq] at h
    have hk : k ≠ a := by omega
    simp only [memRead, hk, if_false]
    exact ih h.2 (by omega)

/-- Reading a cell gives what was last written to it (R82, R83). -/
theorem memRead_memWrite_same {m : DelayMem} {lo : Nat} (h : memWfFrom lo m = true) (a : Nat) (v : F32) :
    memRead (memWrite m a v) a = v := by
  induction m generalizing lo with
  | nil => by_cases hv : v = blankCell <;> simp [memWrite, memRead, hv]
  | cons c m ih =>
    obtain ⟨k, u⟩ := c
    simp only [memWfFrom, Bool.and_eq_true, decide_eq_true_eq] at h
    unfold memWrite
    split_ifs with h1 hv h2 hv
    · subst hv
      have hk : k ≠ a := by omega
      simp only [memRead, hk, if_false]
      exact memRead_below h.2 (by omega)
    · simp [memRead]
    · subst hv; subst h2
      exact memRead_below h.2 (by omega)
    · simp [memRead]
    · have hk : k ≠ a := fun e => h2 e.symm
      simp only [memRead, hk, if_false]
      exact ih h.2

/-- A write leaves every other cell as it was (R83). -/
theorem memRead_memWrite_other {m : DelayMem} {a b : Nat} (h : b ≠ a) (v : F32) :
    memRead (memWrite m a v) b = memRead m b := by
  have hab : a ≠ b := fun e => h e.symm
  induction m with
  | nil => by_cases hv : v = blankCell <;> simp [memWrite, memRead, hv, hab]
  | cons c m ih =>
    obtain ⟨k, u⟩ := c
    unfold memWrite
    split_ifs with h1 hv h2 hv
    · rfl
    · simp [memRead, hab]
    · subst h2; simp [memRead, hab]
    · subst h2; simp [memRead, hab]
    · simp only [memRead, ih]

/-- A write keeps the canonical form. -/
theorem memWfFrom_memWrite {m : DelayMem} {lo a : Nat} (h : memWfFrom lo m = true) (ha : lo ≤ a) (v : F32) :
    memWfFrom lo (memWrite m a v) = true := by
  induction m generalizing lo with
  | nil => by_cases hv : v = blankCell <;> simp [memWrite, memWfFrom, hv, ha]
  | cons c m ih =>
    obtain ⟨k, u⟩ := c
    have h' := h
    simp only [memWfFrom, Bool.and_eq_true, decide_eq_true_eq] at h
    have mono : ∀ {lo lo' : Nat} {m : DelayMem}, lo' ≤ lo → memWfFrom lo m = true →
        memWfFrom lo' m = true := by
      intro lo lo' m hle hm
      cases m with
      | nil => rfl
      | cons c m =>
        simp only [memWfFrom, Bool.and_eq_true, decide_eq_true_eq] at hm ⊢
        exact ⟨⟨by omega, hm.1.2⟩, hm.2⟩
    unfold memWrite
    split_ifs with h1 hv h2 hv
    · exact h'
    · simp only [memWfFrom, Bool.and_eq_true, decide_eq_true_eq]
      exact ⟨⟨ha, hv⟩, ⟨by omega, h.1.2⟩, h.2⟩
    · exact mono (by omega) h.2
    · simp only [memWfFrom, Bool.and_eq_true, decide_eq_true_eq]
      exact ⟨⟨ha, hv⟩, by rw [h2]; exact h.2⟩
    · simp only [memWfFrom, Bool.and_eq_true, decide_eq_true_eq]
      exact ⟨h.1, ih h.2 (by omega)⟩

theorem memWf_memWrite {m : DelayMem} (h : memWf m = true) (a : Nat) (v : F32) :
    memWf (memWrite m a v) = true := memWfFrom_memWrite h (Nat.zero_le a) v

/-- A write inside the line lists no cell outside it (R80). -/
theorem memBelow_memWrite {m : DelayMem} {len a : Nat} (h : memBelow len m = true) (ha : a < len) (v : F32) :
    memBelow len (memWrite m a v) = true := by
  induction m with
  | nil => by_cases hv : v = blankCell <;> simp [memWrite, memBelow, hv, ha]
  | cons c m ih =>
    obtain ⟨k, u⟩ := c
    simp only [memBelow, List.all_cons, Bool.and_eq_true, decide_eq_true_eq] at h ih ⊢
    unfold memWrite
    split_ifs <;> simp [h.1, ha, h.2, ih h.2]

/-- Two memories in canonical form that read alike are the same list. -/
theorem memWf_ext {m m' : DelayMem} {lo : Nat} (h : memWfFrom lo m = true) (h' : memWfFrom lo m' = true)
    (e : ∀ a, memRead m a = memRead m' a) : m = m' := by
  induction m generalizing lo m' with
  | nil =>
    cases m' with
    | nil => rfl
    | cons c m' =>
      obtain ⟨k, v⟩ := c
      simp only [memWfFrom, Bool.and_eq_true, decide_eq_true_eq] at h'
      have := e k
      simp only [memRead, if_true] at this
      exact absurd this.symm h'.1.2
  | cons c m ih =>
    obtain ⟨k, v⟩ := c
    simp only [memWfFrom, Bool.and_eq_true, decide_eq_true_eq] at h
    cases m' with
    | nil =>
      have := e k
      simp only [memRead, if_true] at this
      exact absurd this h.1.2
    | cons c' m' =>
      obtain ⟨k', v'⟩ := c'
      simp only [memWfFrom, Bool.and_eq_true, decide_eq_true_eq] at h'
      have hk : k = k' := by
        rcases lt_trichotomy k k' with hlt | heq | hgt
        · have e1 := e k
          have hne : k' ≠ k := by omega
          simp only [memRead, if_true, hne, if_false] at e1
          rw [memRead_below h'.2 (by omega)] at e1
          exact absurd e1 h.1.2
        · exact heq
        · have e1 := e k'
          have hne : k ≠ k' := by omega
          simp only [memRead, if_true, hne, if_false] at e1
          rw [memRead_below h.2 (by omega)] at e1
          exact absurd e1.symm h'.1.2
      subst hk
      have hv : v = v' := by simpa [memRead] using e k
      subst hv
      congr 1
      apply ih h.2 h'.2
      intro a
      by_cases ha : k = a
      · subst ha
        rw [memRead_below h.2 (by omega), memRead_below h'.2 (by omega)]
      · simpa [memRead, ha] using e a

end Sys2Proof.Machine
end

