-- ==== Sys2Proof/Laws/State.lean ====
section
/-! SUPPORT. Laws/State.lean: what each field of the state is after each named update, by definition, so that no proof
unfolds an update. -/

namespace Sys2Proof.Machine

@[simp] theorem setFlag_illegal_cfg (s : State) : (setFlag .illegal s).cfg = s.cfg := rfl
@[simp] theorem setFlag_illegal_sr (s : State) : (setFlag .illegal s).sr = s.sr := rfl
@[simp] theorem setFlag_illegal_srF (s : State) : (setFlag .illegal s).srF = s.srF := rfl
@[simp] theorem setFlag_illegal_out (s : State) : (setFlag .illegal s).out = s.out := rfl
@[simp] theorem setFlag_illegal_errIllegal (s : State) : (setFlag .illegal s).errIllegal = true := rfl
@[simp] theorem setFlag_illegal_errUncfg (s : State) : (setFlag .illegal s).errUncfg = s.errUncfg := rfl
@[simp] theorem setFlag_illegal_errRange (s : State) : (setFlag .illegal s).errRange = s.errRange := rfl
@[simp] theorem setFlag_illegal_errNan (s : State) : (setFlag .illegal s).errNan = s.errNan := rfl
@[simp] theorem setFlag_illegal_voices (s : State) : (setFlag .illegal s).voices = s.voices := rfl
@[simp] theorem setFlag_illegal_rv (s : State) : (setFlag .illegal s).rv = s.rv := rfl
@[simp] theorem setFlag_illegal_combs (s : State) : (setFlag .illegal s).combs = s.combs := rfl
@[simp] theorem setFlag_illegal_aps (s : State) : (setFlag .illegal s).aps = s.aps := rfl
@[simp] theorem setFlag_illegal_lim (s : State) : (setFlag .illegal s).lim = s.lim := rfl
@[simp] theorem setFlag_illegal_stream (s : State) : (setFlag .illegal s).stream = s.stream := rfl

@[simp] theorem setFlag_uncfg_cfg (s : State) : (setFlag .uncfg s).cfg = s.cfg := rfl
@[simp] theorem setFlag_uncfg_sr (s : State) : (setFlag .uncfg s).sr = s.sr := rfl
@[simp] theorem setFlag_uncfg_srF (s : State) : (setFlag .uncfg s).srF = s.srF := rfl
@[simp] theorem setFlag_uncfg_out (s : State) : (setFlag .uncfg s).out = s.out := rfl
@[simp] theorem setFlag_uncfg_errIllegal (s : State) : (setFlag .uncfg s).errIllegal = s.errIllegal := rfl
@[simp] theorem setFlag_uncfg_errUncfg (s : State) : (setFlag .uncfg s).errUncfg = true := rfl
@[simp] theorem setFlag_uncfg_errRange (s : State) : (setFlag .uncfg s).errRange = s.errRange := rfl
@[simp] theorem setFlag_uncfg_errNan (s : State) : (setFlag .uncfg s).errNan = s.errNan := rfl
@[simp] theorem setFlag_uncfg_voices (s : State) : (setFlag .uncfg s).voices = s.voices := rfl
@[simp] theorem setFlag_uncfg_rv (s : State) : (setFlag .uncfg s).rv = s.rv := rfl
@[simp] theorem setFlag_uncfg_combs (s : State) : (setFlag .uncfg s).combs = s.combs := rfl
@[simp] theorem setFlag_uncfg_aps (s : State) : (setFlag .uncfg s).aps = s.aps := rfl
@[simp] theorem setFlag_uncfg_lim (s : State) : (setFlag .uncfg s).lim = s.lim := rfl
@[simp] theorem setFlag_uncfg_stream (s : State) : (setFlag .uncfg s).stream = s.stream := rfl

@[simp] theorem setFlag_range_cfg (s : State) : (setFlag .range s).cfg = s.cfg := rfl
@[simp] theorem setFlag_range_sr (s : State) : (setFlag .range s).sr = s.sr := rfl
@[simp] theorem setFlag_range_srF (s : State) : (setFlag .range s).srF = s.srF := rfl
@[simp] theorem setFlag_range_out (s : State) : (setFlag .range s).out = s.out := rfl
@[simp] theorem setFlag_range_errIllegal (s : State) : (setFlag .range s).errIllegal = s.errIllegal := rfl
@[simp] theorem setFlag_range_errUncfg (s : State) : (setFlag .range s).errUncfg = s.errUncfg := rfl
@[simp] theorem setFlag_range_errRange (s : State) : (setFlag .range s).errRange = true := rfl
@[simp] theorem setFlag_range_errNan (s : State) : (setFlag .range s).errNan = s.errNan := rfl
@[simp] theorem setFlag_range_voices (s : State) : (setFlag .range s).voices = s.voices := rfl
@[simp] theorem setFlag_range_rv (s : State) : (setFlag .range s).rv = s.rv := rfl
@[simp] theorem setFlag_range_combs (s : State) : (setFlag .range s).combs = s.combs := rfl
@[simp] theorem setFlag_range_aps (s : State) : (setFlag .range s).aps = s.aps := rfl
@[simp] theorem setFlag_range_lim (s : State) : (setFlag .range s).lim = s.lim := rfl
@[simp] theorem setFlag_range_stream (s : State) : (setFlag .range s).stream = s.stream := rfl

@[simp] theorem setFlag_nan_cfg (s : State) : (setFlag .nan s).cfg = s.cfg := rfl
@[simp] theorem setFlag_nan_sr (s : State) : (setFlag .nan s).sr = s.sr := rfl
@[simp] theorem setFlag_nan_srF (s : State) : (setFlag .nan s).srF = s.srF := rfl
@[simp] theorem setFlag_nan_out (s : State) : (setFlag .nan s).out = s.out := rfl
@[simp] theorem setFlag_nan_errIllegal (s : State) : (setFlag .nan s).errIllegal = s.errIllegal := rfl
@[simp] theorem setFlag_nan_errUncfg (s : State) : (setFlag .nan s).errUncfg = s.errUncfg := rfl
@[simp] theorem setFlag_nan_errRange (s : State) : (setFlag .nan s).errRange = s.errRange := rfl
@[simp] theorem setFlag_nan_errNan (s : State) : (setFlag .nan s).errNan = true := rfl
@[simp] theorem setFlag_nan_voices (s : State) : (setFlag .nan s).voices = s.voices := rfl
@[simp] theorem setFlag_nan_rv (s : State) : (setFlag .nan s).rv = s.rv := rfl
@[simp] theorem setFlag_nan_combs (s : State) : (setFlag .nan s).combs = s.combs := rfl
@[simp] theorem setFlag_nan_aps (s : State) : (setFlag .nan s).aps = s.aps := rfl
@[simp] theorem setFlag_nan_lim (s : State) : (setFlag .nan s).lim = s.lim := rfl
@[simp] theorem setFlag_nan_stream (s : State) : (setFlag .nan s).stream = s.stream := rfl

/-! ### `clearFlags` -/

@[simp] theorem clearFlags_cfg (s : State) : (clearFlags s).cfg = s.cfg := rfl
@[simp] theorem clearFlags_sr (s : State) : (clearFlags s).sr = s.sr := rfl
@[simp] theorem clearFlags_srF (s : State) : (clearFlags s).srF = s.srF := rfl
@[simp] theorem clearFlags_out (s : State) : (clearFlags s).out = s.out := rfl
@[simp] theorem clearFlags_errIllegal (s : State) : (clearFlags s).errIllegal = false := rfl
@[simp] theorem clearFlags_errUncfg (s : State) : (clearFlags s).errUncfg = false := rfl
@[simp] theorem clearFlags_errRange (s : State) : (clearFlags s).errRange = false := rfl
@[simp] theorem clearFlags_errNan (s : State) : (clearFlags s).errNan = false := rfl
@[simp] theorem clearFlags_voices (s : State) : (clearFlags s).voices = s.voices := rfl
@[simp] theorem clearFlags_rv (s : State) : (clearFlags s).rv = s.rv := rfl
@[simp] theorem clearFlags_combs (s : State) : (clearFlags s).combs = s.combs := rfl
@[simp] theorem clearFlags_aps (s : State) : (clearFlags s).aps = s.aps := rfl
@[simp] theorem clearFlags_lim (s : State) : (clearFlags s).lim = s.lim := rfl
@[simp] theorem clearFlags_stream (s : State) : (clearFlags s).stream = s.stream := rfl

/-! ### `noteOn` -/

@[simp] theorem noteOn_cfg (c : Config) (n : Note) (v : Velocity) (s : State) :
    (noteOn c n v s).cfg = s.cfg := rfl
@[simp] theorem noteOn_sr (c : Config) (n : Note) (v : Velocity) (s : State) :
    (noteOn c n v s).sr = s.sr := rfl
@[simp] theorem noteOn_srF (c : Config) (n : Note) (v : Velocity) (s : State) :
    (noteOn c n v s).srF = s.srF := rfl
@[simp] theorem noteOn_out (c : Config) (n : Note) (v : Velocity) (s : State) :
    (noteOn c n v s).out = s.out := rfl
@[simp] theorem noteOn_errIllegal (c : Config) (n : Note) (v : Velocity) (s : State) :
    (noteOn c n v s).errIllegal = s.errIllegal := rfl
@[simp] theorem noteOn_errUncfg (c : Config) (n : Note) (v : Velocity) (s : State) :
    (noteOn c n v s).errUncfg = s.errUncfg := rfl
@[simp] theorem noteOn_errRange (c : Config) (n : Note) (v : Velocity) (s : State) :
    (noteOn c n v s).errRange = s.errRange := rfl
@[simp] theorem noteOn_errNan (c : Config) (n : Note) (v : Velocity) (s : State) :
    (noteOn c n v s).errNan = s.errNan := rfl
@[simp] theorem noteOn_voices (c : Config) (n : Note) (v : Velocity) (s : State) :
    (noteOn c n v s).voices = s.voices.set (allocate s.voices) (voiceNoteOn c s.srF n v s.voices[allocate s.voices]) := rfl
@[simp] theorem noteOn_rv (c : Config) (n : Note) (v : Velocity) (s : State) :
    (noteOn c n v s).rv = s.rv := rfl
@[simp] theorem noteOn_combs (c : Config) (n : Note) (v : Velocity) (s : State) :
    (noteOn c n v s).combs = s.combs := rfl
@[simp] theorem noteOn_aps (c : Config) (n : Note) (v : Velocity) (s : State) :
    (noteOn c n v s).aps = s.aps := rfl
@[simp] theorem noteOn_lim (c : Config) (n : Note) (v : Velocity) (s : State) :
    (noteOn c n v s).lim = s.lim := rfl
@[simp] theorem noteOn_stream (c : Config) (n : Note) (v : Velocity) (s : State) :
    (noteOn c n v s).stream = s.stream := rfl

/-! ### `noteOff` -/

@[simp] theorem noteOff_cfg (n : Note) (s : State) : (noteOff n s).cfg = s.cfg := rfl
@[simp] theorem noteOff_sr (n : Note) (s : State) : (noteOff n s).sr = s.sr := rfl
@[simp] theorem noteOff_srF (n : Note) (s : State) : (noteOff n s).srF = s.srF := rfl
@[simp] theorem noteOff_out (n : Note) (s : State) : (noteOff n s).out = s.out := rfl
@[simp] theorem noteOff_errIllegal (n : Note) (s : State) :
    (noteOff n s).errIllegal = s.errIllegal := rfl
@[simp] theorem noteOff_errUncfg (n : Note) (s : State) : (noteOff n s).errUncfg = s.errUncfg := rfl
@[simp] theorem noteOff_errRange (n : Note) (s : State) : (noteOff n s).errRange = s.errRange := rfl
@[simp] theorem noteOff_errNan (n : Note) (s : State) : (noteOff n s).errNan = s.errNan := rfl
@[simp] theorem noteOff_voices (n : Note) (s : State) :
    (noteOff n s).voices = Vector.ofFn fun i : Fin 8 => noteOffVoice n s.voices[i] := rfl
@[simp] theorem noteOff_rv (n : Note) (s : State) : (noteOff n s).rv = s.rv := rfl
@[simp] theorem noteOff_combs (n : Note) (s : State) : (noteOff n s).combs = s.combs := rfl
@[simp] theorem noteOff_aps (n : Note) (s : State) : (noteOff n s).aps = s.aps := rfl
@[simp] theorem noteOff_lim (n : Note) (s : State) : (noteOff n s).lim = s.lim := rfl
@[simp] theorem noteOff_stream (n : Note) (s : State) : (noteOff n s).stream = s.stream := rfl

/-! ### `recomputeCombs` -/

@[simp] theorem recomputeCombs_cfg (s : State) : (recomputeCombs s).cfg = s.cfg := rfl
@[simp] theorem recomputeCombs_sr (s : State) : (recomputeCombs s).sr = s.sr := rfl
@[simp] theorem recomputeCombs_srF (s : State) : (recomputeCombs s).srF = s.srF := rfl
@[simp] theorem recomputeCombs_out (s : State) : (recomputeCombs s).out = s.out := rfl
@[simp] theorem recomputeCombs_errIllegal (s : State) :
    (recomputeCombs s).errIllegal = s.errIllegal := rfl
@[simp] theorem recomputeCombs_errUncfg (s : State) :
    (recomputeCombs s).errUncfg = s.errUncfg := rfl
@[simp] theorem recomputeCombs_errRange (s : State) :
    (recomputeCombs s).errRange = s.errRange := rfl
@[simp] theorem recomputeCombs_errNan (s : State) : (recomputeCombs s).errNan = s.errNan := rfl
@[simp] theorem recomputeCombs_voices (s : State) : (recomputeCombs s).voices = s.voices := rfl
@[simp] theorem recomputeCombs_rv (s : State) : (recomputeCombs s).rv = s.rv := rfl
@[simp] theorem recomputeCombs_combs (s : State) :
    (recomputeCombs s).combs = Vector.ofFn fun k : Fin 4 => { s.combs[k] with feedback := fadd (fmul s.rv.roomSize f0p6) f0p4, damp := s.rv.damping } := rfl
@[simp] theorem recomputeCombs_aps (s : State) : (recomputeCombs s).aps = s.aps := rfl
@[simp] theorem recomputeCombs_lim (s : State) : (recomputeCombs s).lim = s.lim := rfl
@[simp] theorem recomputeCombs_stream (s : State) : (recomputeCombs s).stream = s.stream := rfl

/-! ### `setRoom` -/

@[simp] theorem setRoom_cfg (f : F32) (s : State) : (setRoom f s).cfg = s.cfg := rfl
@[simp] theorem setRoom_sr (f : F32) (s : State) : (setRoom f s).sr = s.sr := rfl
@[simp] theorem setRoom_srF (f : F32) (s : State) : (setRoom f s).srF = s.srF := rfl
@[simp] theorem setRoom_out (f : F32) (s : State) : (setRoom f s).out = s.out := rfl
@[simp] theorem setRoom_errIllegal (f : F32) (s : State) :
    (setRoom f s).errIllegal = s.errIllegal := rfl
@[simp] theorem setRoom_errUncfg (f : F32) (s : State) : (setRoom f s).errUncfg = s.errUncfg := rfl
@[simp] theorem setRoom_errRange (f : F32) (s : State) : (setRoom f s).errRange = s.errRange := rfl
@[simp] theorem setRoom_errNan (f : F32) (s : State) : (setRoom f s).errNan = s.errNan := rfl
@[simp] theorem setRoom_voices (f : F32) (s : State) : (setRoom f s).voices = s.voices := rfl
@[simp] theorem setRoom_rv (f : F32) (s : State) :
    (setRoom f s).rv = { s.rv with roomSize := clampUnit f } := rfl
@[simp] theorem setRoom_combs (f : F32) (s : State) :
    (setRoom f s).combs = Vector.ofFn fun k : Fin 4 => { s.combs[k] with feedback := fadd (fmul (clampUnit f) f0p6) f0p4, damp := s.rv.damping } := rfl
@[simp] theorem setRoom_aps (f : F32) (s : State) : (setRoom f s).aps = s.aps := rfl
@[simp] theorem setRoom_lim (f : F32) (s : State) : (setRoom f s).lim = s.lim := rfl
@[simp] theorem setRoom_stream (f : F32) (s : State) : (setRoom f s).stream = s.stream := rfl

/-! ### `setDamp` -/

@[simp] theorem setDamp_cfg (f : F32) (s : State) : (setDamp f s).cfg = s.cfg := rfl
@[simp] theorem setDamp_sr (f : F32) (s : State) : (setDamp f s).sr = s.sr := rfl
@[simp] theorem setDamp_srF (f : F32) (s : State) : (setDamp f s).srF = s.srF := rfl
@[simp] theorem setDamp_out (f : F32) (s : State) : (setDamp f s).out = s.out := rfl
@[simp] theorem setDamp_errIllegal (f : F32) (s : State) :
    (setDamp f s).errIllegal = s.errIllegal := rfl
@[simp] theorem setDamp_errUncfg (f : F32) (s : State) : (setDamp f s).errUncfg = s.errUncfg := rfl
@[simp] theorem setDamp_errRange (f : F32) (s : State) : (setDamp f s).errRange = s.errRange := rfl
@[simp] theorem setDamp_errNan (f : F32) (s : State) : (setDamp f s).errNan = s.errNan := rfl
@[simp] theorem setDamp_voices (f : F32) (s : State) : (setDamp f s).voices = s.voices := rfl
@[simp] theorem setDamp_rv (f : F32) (s : State) :
    (setDamp f s).rv = { s.rv with damping := clampUnit f } := rfl
@[simp] theorem setDamp_combs (f : F32) (s : State) :
    (setDamp f s).combs = Vector.ofFn fun k : Fin 4 => { s.combs[k] with feedback := fadd (fmul s.rv.roomSize f0p6) f0p4, damp := clampUnit f } := rfl
@[simp] theorem setDamp_aps (f : F32) (s : State) : (setDamp f s).aps = s.aps := rfl
@[simp] theorem setDamp_lim (f : F32) (s : State) : (setDamp f s).lim = s.lim := rfl
@[simp] theorem setDamp_stream (f : F32) (s : State) : (setDamp f s).stream = s.stream := rfl

/-! ### `setThresh` -/

@[simp] theorem setThresh_cfg (c : Config) (f : F32) (s : State) :
    (setThresh c f s).cfg = s.cfg := rfl
@[simp] theorem setThresh_sr (c : Config) (f : F32) (s : State) : (setThresh c f s).sr = s.sr := rfl
@[simp] theorem setThresh_srF (c : Config) (f : F32) (s : State) :
    (setThresh c f s).srF = s.srF := rfl
@[simp] theorem setThresh_out (c : Config) (f : F32) (s : State) :
    (setThresh c f s).out = s.out := rfl
@[simp] theorem setThresh_errIllegal (c : Config) (f : F32) (s : State) :
    (setThresh c f s).errIllegal = s.errIllegal := rfl
@[simp] theorem setThresh_errUncfg (c : Config) (f : F32) (s : State) :
    (setThresh c f s).errUncfg = s.errUncfg := rfl
@[simp] theorem setThresh_errRange (c : Config) (f : F32) (s : State) :
    (setThresh c f s).errRange = s.errRange := rfl
@[simp] theorem setThresh_errNan (c : Config) (f : F32) (s : State) :
    (setThresh c f s).errNan = s.errNan := rfl
@[simp] theorem setThresh_voices (c : Config) (f : F32) (s : State) :
    (setThresh c f s).voices = s.voices := rfl
@[simp] theorem setThresh_rv (c : Config) (f : F32) (s : State) : (setThresh c f s).rv = s.rv := rfl
@[simp] theorem setThresh_combs (c : Config) (f : F32) (s : State) :
    (setThresh c f s).combs = s.combs := rfl
@[simp] theorem setThresh_aps (c : Config) (f : F32) (s : State) :
    (setThresh c f s).aps = s.aps := rfl
@[simp] theorem setThresh_lim (c : Config) (f : F32) (s : State) :
    (setThresh c f s).lim = { s.lim with threshDb := fclamp f fm60 f0, threshLin := dbToLin c (fclamp f fm60 f0) } := rfl
@[simp] theorem setThresh_stream (c : Config) (f : F32) (s : State) :
    (setThresh c f s).stream = s.stream := rfl

/-! ### `setAttack` -/

@[simp] theorem setAttack_cfg (c : Config) (f : F32) (s : State) :
    (setAttack c f s).cfg = s.cfg := rfl
@[simp] theorem setAttack_sr (c : Config) (f : F32) (s : State) : (setAttack c f s).sr = s.sr := rfl
@[simp] theorem setAttack_srF (c : Config) (f : F32) (s : State) :
    (setAttack c f s).srF = s.srF := rfl
@[simp] theorem setAttack_out (c : Config) (f : F32) (s : State) :
    (setAttack c f s).out = s.out := rfl
@[simp] theorem setAttack_errIllegal (c : Config) (f : F32) (s : State) :
    (setAttack c f s).errIllegal = s.errIllegal := rfl
@[simp] theorem setAttack_errUncfg (c : Config) (f : F32) (s : State) :
    (setAttack c f s).errUncfg = s.errUncfg := rfl
@[simp] theorem setAttack_errRange (c : Config) (f : F32) (s : State) :
    (setAttack c f s).errRange = s.errRange := rfl
@[simp] theorem setAttack_errNan (c : Config) (f : F32) (s : State) :
    (setAttack c f s).errNan = s.errNan := rfl
@[simp] theorem setAttack_voices (c : Config) (f : F32) (s : State) :
    (setAttack c f s).voices = s.voices := rfl
@[simp] theorem setAttack_rv (c : Config) (f : F32) (s : State) : (setAttack c f s).rv = s.rv := rfl
@[simp] theorem setAttack_combs (c : Config) (f : F32) (s : State) :
    (setAttack c f s).combs = s.combs := rfl
@[simp] theorem setAttack_aps (c : Config) (f : F32) (s : State) :
    (setAttack c f s).aps = s.aps := rfl
@[simp] theorem setAttack_lim (c : Config) (f : F32) (s : State) :
    (setAttack c f s).lim = { s.lim with attackTime := fclamp f c.attMin c.attMax, attackCoef := coef c s.srF (fclamp f c.attMin c.attMax) } := rfl
@[simp] theorem setAttack_stream (c : Config) (f : F32) (s : State) :
    (setAttack c f s).stream = s.stream := rfl

/-! ### `setRelease` -/

@[simp] theorem setRelease_cfg (c : Config) (f : F32) (s : State) :
    (setRelease c f s).cfg = s.cfg := rfl
@[simp] theorem setRelease_sr (c : Config) (f : F32) (s : State) :
    (setRelease c f s).sr = s.sr := rfl
@[simp] theorem setRelease_srF (c : Config) (f : F32) (s : State) :
    (setRelease c f s).srF = s.srF := rfl
@[simp] theorem setRelease_out (c : Config) (f : F32) (s : State) :
    (setRelease c f s).out = s.out := rfl
@[simp] theorem setRelease_errIllegal (c : Config) (f : F32) (s : State) :
    (setRelease c f s).errIllegal = s.errIllegal := rfl
@[simp] theorem setRelease_errUncfg (c : Config) (f : F32) (s : State) :
    (setRelease c f s).errUncfg = s.errUncfg := rfl
@[simp] theorem setRelease_errRange (c : Config) (f : F32) (s : State) :
    (setRelease c f s).errRange = s.errRange := rfl
@[simp] theorem setRelease_errNan (c : Config) (f : F32) (s : State) :
    (setRelease c f s).errNan = s.errNan := rfl
@[simp] theorem setRelease_voices (c : Config) (f : F32) (s : State) :
    (setRelease c f s).voices = s.voices := rfl
@[simp] theorem setRelease_rv (c : Config) (f : F32) (s : State) :
    (setRelease c f s).rv = s.rv := rfl
@[simp] theorem setRelease_combs (c : Config) (f : F32) (s : State) :
    (setRelease c f s).combs = s.combs := rfl
@[simp] theorem setRelease_aps (c : Config) (f : F32) (s : State) :
    (setRelease c f s).aps = s.aps := rfl
@[simp] theorem setRelease_lim (c : Config) (f : F32) (s : State) :
    (setRelease c f s).lim = { s.lim with releaseTime := fclamp f c.relMin c.relMax, releaseCoef := coef c s.srF (fclamp f c.relMin c.relMax) } := rfl
@[simp] theorem setRelease_stream (c : Config) (f : F32) (s : State) :
    (setRelease c f s).stream = s.stream := rfl

/-! ### `setMakeup` -/

@[simp] theorem setMakeup_cfg (c : Config) (f : F32) (s : State) :
    (setMakeup c f s).cfg = s.cfg := rfl
@[simp] theorem setMakeup_sr (c : Config) (f : F32) (s : State) : (setMakeup c f s).sr = s.sr := rfl
@[simp] theorem setMakeup_srF (c : Config) (f : F32) (s : State) :
    (setMakeup c f s).srF = s.srF := rfl
@[simp] theorem setMakeup_out (c : Config) (f : F32) (s : State) :
    (setMakeup c f s).out = s.out := rfl
@[simp] theorem setMakeup_errIllegal (c : Config) (f : F32) (s : State) :
    (setMakeup c f s).errIllegal = s.errIllegal := rfl
@[simp] theorem setMakeup_errUncfg (c : Config) (f : F32) (s : State) :
    (setMakeup c f s).errUncfg = s.errUncfg := rfl
@[simp] theorem setMakeup_errRange (c : Config) (f : F32) (s : State) :
    (setMakeup c f s).errRange = s.errRange := rfl
@[simp] theorem setMakeup_errNan (c : Config) (f : F32) (s : State) :
    (setMakeup c f s).errNan = s.errNan := rfl
@[simp] theorem setMakeup_voices (c : Config) (f : F32) (s : State) :
    (setMakeup c f s).voices = s.voices := rfl
@[simp] theorem setMakeup_rv (c : Config) (f : F32) (s : State) : (setMakeup c f s).rv = s.rv := rfl
@[simp] theorem setMakeup_combs (c : Config) (f : F32) (s : State) :
    (setMakeup c f s).combs = s.combs := rfl
@[simp] theorem setMakeup_aps (c : Config) (f : F32) (s : State) :
    (setMakeup c f s).aps = s.aps := rfl
@[simp] theorem setMakeup_lim (c : Config) (f : F32) (s : State) :
    (setMakeup c f s).lim = { s.lim with makeupDb := fclamp f f0 f30, makeupLin := dbToLin c (fclamp f f0 f30) } := rfl
@[simp] theorem setMakeup_stream (c : Config) (f : F32) (s : State) :
    (setMakeup c f s).stream = s.stream := rfl

/-! ### `construct` -/

@[simp] theorem construct_cfg (c : Config) (u : BitVec 32) (s : State) :
    (construct c u s).cfg = true := rfl
@[simp] theorem construct_sr (c : Config) (u : BitVec 32) (s : State) :
    (construct c u s).sr = u := rfl
@[simp] theorem construct_srF (c : Config) (u : BitVec 32) (s : State) :
    (construct c u s).srF = rateF32 u := rfl
@[simp] theorem construct_out (c : Config) (u : BitVec 32) (s : State) :
    (construct c u s).out = f0 := rfl
@[simp] theorem construct_errIllegal (c : Config) (u : BitVec 32) (s : State) :
    (construct c u s).errIllegal = s.errIllegal := rfl
@[simp] theorem construct_errUncfg (c : Config) (u : BitVec 32) (s : State) :
    (construct c u s).errUncfg = s.errUncfg := rfl
@[simp] theorem construct_errRange (c : Config) (u : BitVec 32) (s : State) :
    (construct c u s).errRange = s.errRange := rfl
@[simp] theorem construct_errNan (c : Config) (u : BitVec 32) (s : State) :
    (construct c u s).errNan = s.errNan := rfl
@[simp] theorem construct_voices (c : Config) (u : BitVec 32) (s : State) :
    (construct c u s).voices = Vector.ofFn fun _ : Fin 8 => builtVoice c (rateF32 u) := rfl
@[simp] theorem construct_rv (c : Config) (u : BitVec 32) (s : State) :
    (construct c u s).rv = builtReverb c := rfl
@[simp] theorem construct_combs (c : Config) (u : BitVec 32) (s : State) :
    (construct c u s).combs = Vector.ofFn fun k : Fin 4 => builtComb combMs[k] (rateF32 u) := rfl
@[simp] theorem construct_aps (c : Config) (u : BitVec 32) (s : State) :
    (construct c u s).aps = Vector.ofFn fun a : Fin 2 => builtAllpass apMs[a] (rateF32 u) := rfl
@[simp] theorem construct_lim (c : Config) (u : BitVec 32) (s : State) :
    (construct c u s).lim = builtLimiter c (rateF32 u) := rfl
@[simp] theorem construct_stream (c : Config) (u : BitVec 32) (s : State) :
    (construct c u s).stream = s.stream := rfl

/-! ### `sampleFrame` -/

@[simp] theorem sampleFrame_cfg (c : Config) (s : State) : (sampleFrame c s).cfg = s.cfg := by simp only [sampleFrame]
@[simp] theorem sampleFrame_sr (c : Config) (s : State) : (sampleFrame c s).sr = s.sr := by simp only [sampleFrame]
@[simp] theorem sampleFrame_srF (c : Config) (s : State) : (sampleFrame c s).srF = s.srF := by simp only [sampleFrame]
@[simp] theorem sampleFrame_out (c : Config) (s : State) :
    (sampleFrame c s).out = limiterOut s.lim (frameReverb c s) := by simp only [sampleFrame]
@[simp] theorem sampleFrame_errIllegal (c : Config) (s : State) :
    (sampleFrame c s).errIllegal = s.errIllegal := by simp only [sampleFrame]
@[simp] theorem sampleFrame_errUncfg (c : Config) (s : State) :
    (sampleFrame c s).errUncfg = s.errUncfg := by simp only [sampleFrame]
@[simp] theorem sampleFrame_errRange (c : Config) (s : State) :
    (sampleFrame c s).errRange = s.errRange := by simp only [sampleFrame]
@[simp] theorem sampleFrame_errNan (c : Config) (s : State) :
    (sampleFrame c s).errNan = s.errNan := by simp only [sampleFrame]
@[simp] theorem sampleFrame_voices (c : Config) (s : State) :
    (sampleFrame c s).voices = voicesAfter c s := by simp only [sampleFrame]
@[simp] theorem sampleFrame_rv (c : Config) (s : State) : (sampleFrame c s).rv = s.rv := by simp only [sampleFrame]
@[simp] theorem sampleFrame_combs (c : Config) (s : State) :
    (sampleFrame c s).combs = combsAfter s.combs (voiceSum c s) := by simp only [sampleFrame]
@[simp] theorem sampleFrame_aps (c : Config) (s : State) :
    (sampleFrame c s).aps = apsAfter s.combs s.aps (voiceSum c s) := by simp only [sampleFrame]
@[simp] theorem sampleFrame_lim (c : Config) (s : State) :
    (sampleFrame c s).lim = limiterAfter s.lim (frameReverb c s) := by simp only [sampleFrame]
@[simp] theorem sampleFrame_stream (c : Config) (s : State) :
    (sampleFrame c s).stream = s.stream := by simp only [sampleFrame]

/-! ### `presentWord` -/

@[simp] theorem presentWord_cfg (w : Word) (s : State) : (presentWord w s).cfg = s.cfg := rfl
@[simp] theorem presentWord_sr (w : Word) (s : State) : (presentWord w s).sr = s.sr := rfl
@[simp] theorem presentWord_srF (w : Word) (s : State) : (presentWord w s).srF = s.srF := rfl
@[simp] theorem presentWord_out (w : Word) (s : State) : (presentWord w s).out = s.out := rfl
@[simp] theorem presentWord_errIllegal (w : Word) (s : State) :
    (presentWord w s).errIllegal = s.errIllegal := rfl
@[simp] theorem presentWord_errUncfg (w : Word) (s : State) :
    (presentWord w s).errUncfg = s.errUncfg := rfl
@[simp] theorem presentWord_errRange (w : Word) (s : State) :
    (presentWord w s).errRange = s.errRange := rfl
@[simp] theorem presentWord_errNan (w : Word) (s : State) :
    (presentWord w s).errNan = s.errNan := rfl
@[simp] theorem presentWord_voices (w : Word) (s : State) :
    (presentWord w s).voices = s.voices := rfl
@[simp] theorem presentWord_rv (w : Word) (s : State) : (presentWord w s).rv = s.rv := rfl
@[simp] theorem presentWord_combs (w : Word) (s : State) : (presentWord w s).combs = s.combs := rfl
@[simp] theorem presentWord_aps (w : Word) (s : State) : (presentWord w s).aps = s.aps := rfl
@[simp] theorem presentWord_lim (w : Word) (s : State) : (presentWord w s).lim = s.lim := rfl
@[simp] theorem presentWord_stream (w : Word) (s : State) :
    (presentWord w s).stream = s.stream ++ [w] := rfl

/-! ### `withFetchWord` -/

@[simp] theorem withFetchWord_cfg (s : State) (n w : Nat) : (s.withFetchWord n w).cfg = s.cfg := rfl
@[simp] theorem withFetchWord_sr (s : State) (n w : Nat) : (s.withFetchWord n w).sr = s.sr := rfl
@[simp] theorem withFetchWord_srF (s : State) (n w : Nat) : (s.withFetchWord n w).srF = s.srF := rfl
@[simp] theorem withFetchWord_out (s : State) (n w : Nat) : (s.withFetchWord n w).out = s.out := rfl
@[simp] theorem withFetchWord_errIllegal (s : State) (n w : Nat) :
    (s.withFetchWord n w).errIllegal = s.errIllegal := rfl
@[simp] theorem withFetchWord_errUncfg (s : State) (n w : Nat) :
    (s.withFetchWord n w).errUncfg = s.errUncfg := rfl
@[simp] theorem withFetchWord_errRange (s : State) (n w : Nat) :
    (s.withFetchWord n w).errRange = s.errRange := rfl
@[simp] theorem withFetchWord_errNan (s : State) (n w : Nat) :
    (s.withFetchWord n w).errNan = s.errNan := rfl
@[simp] theorem withFetchWord_voices (s : State) (n w : Nat) :
    (s.withFetchWord n w).voices = s.voices := rfl
@[simp] theorem withFetchWord_rv (s : State) (n w : Nat) : (s.withFetchWord n w).rv = s.rv := rfl
@[simp] theorem withFetchWord_combs (s : State) (n w : Nat) :
    (s.withFetchWord n w).combs = s.combs := rfl
@[simp] theorem withFetchWord_aps (s : State) (n w : Nat) : (s.withFetchWord n w).aps = s.aps := rfl
@[simp] theorem withFetchWord_lim (s : State) (n w : Nat) : (s.withFetchWord n w).lim = s.lim := rfl
@[simp] theorem withFetchWord_stream (s : State) (n w : Nat) :
    (s.withFetchWord n w).stream = tableWord n w :: s.stream := rfl

end Sys2Proof.Machine
end

