-- ==== Sys2Proof/Laws/Ops.lean ====
section
/-! SUPPORT. Laws/Ops.lean: for each shared operation, once, everything it can do: the checks before a command's rule,
the fetch, a step, and the vectors that a `Vector.ofFn` writes. -/

namespace Sys2Proof.Machine

/-! ### Vectors -/

@[simp] theorem noteOff_voice (n : Note) (s : State) (i : Fin 8) :
    (noteOff n s).voices[i] = noteOffVoice n s.voices[i] := by simp

@[simp] theorem voicesAfter_get (c : Config) (s : State) (i : Fin 8) :
    (voicesAfter c s)[i] = (frameVoice c s i).1 := by simp [voicesAfter]

@[simp] theorem combsAfter_get (combs : Vector Comb 4) (x : F32) (k : Fin 4) :
    (combsAfter combs x)[k] = (combProcess combs[k] x).1 := by simp [combsAfter]

@[simp] theorem apsAfter_zero (combs : Vector Comb 4) (aps : Vector Allpass 2) (x : F32) :
    (apsAfter combs aps x)[0] = (allpassProcess aps[0] (combMean combs x)).1 := rfl

@[simp] theorem apsAfter_one (combs : Vector Comb 4) (aps : Vector Allpass 2) (x : F32) :
    (apsAfter combs aps x)[1] = (allpassProcess aps[1] (firstAllpassOut combs aps x)).1 := rfl

/-- An allpass after a frame is that allpass after one sample of some input. -/
theorem apsAfter_cases (combs : Vector Comb 4) (aps : Vector Allpass 2) (x : F32) (a : Fin 2) :
    ∃ y, (apsAfter combs aps x)[a] = (allpassProcess aps[a] y).1 := by
  match a with
  | 0 => exact ⟨_, rfl⟩
  | 1 => exact ⟨_, rfl⟩

/-! ### Errors -/

/-- Raising an error always answers a next state: the flag set (R311). -/
theorem raiseError_next {e : BlockError} {s t : State} (h : raiseError e s = .next t) :
    t = setFlag e s := by
  simpa [raiseError, eq_comm] using h

@[simp] theorem getFlag_setFlag_same (e : BlockError) (s : State) : getFlag e (setFlag e s) = true := by
  cases e <;> rfl

theorem getFlag_setFlag_other {e e' : BlockError} (h : e' ≠ e) (s : State) :
    getFlag e' (setFlag e s) = getFlag e' s := by
  cases e <;> cases e' <;> first | rfl | exact absurd rfl h

@[simp] theorem getFlag_clearFlags (e : BlockError) (s : State) : getFlag e (clearFlags s) = false := by
  cases e <;> rfl

/-! ### The checks before a command's rule (R110) -/

/-- What the check of CFG can answer. -/
theorem withUnits_next {s t : State} {run : State → Result} (h : withUnits s run = .next t) :
    (s.cfg = true ∧ run s = .next t) ∨ (s.cfg = false ∧ t = setFlag .uncfg s) := by
  unfold withUnits at h
  cases hc : s.cfg with
  | true => exact .inl ⟨rfl, by simpa [hc] using h⟩
  | false => exact .inr ⟨rfl, raiseError_next (by simpa [hc] using h)⟩

/-- What a format-F command can answer. -/
theorem withF32_next {f : F32} {s t : State} {run : State → State} (h : withF32 f s run = .next t) :
    (s.cfg = true ∧ isNaN f = false ∧ t = run s) ∨ (s.cfg = true ∧ isNaN f = true ∧ t = setFlag .nan s) ∨
      (s.cfg = false ∧ t = setFlag .uncfg s) := by
  rcases withUnits_next h with ⟨hc, h⟩ | h
  · cases hn : isNaN f with
    | true => exact .inr (.inl ⟨hc, rfl, raiseError_next (by simpa [hn] using h)⟩)
    | false => exact .inl ⟨hc, rfl, by simpa [hn, eq_comm] using h⟩
  · exact .inr (.inr h)

/-- A format-F command always answers a next state. -/
theorem withF32_total (f : F32) (s : State) (run : State → State) : ∃ t, withF32 f s run = .next t := by
  unfold withF32 withUnits raiseError
  split_ifs <;> exact ⟨_, rfl⟩

/-- What SET_RATE can answer (R296). -/
theorem execSetRate_next {u : BitVec 32} {s t : State} (h : execSetRate u s = .next t) :
    (admittedRate u = false ∧ t = setFlag .range s) ∨
      (admittedRate u = true ∧ s.cfg = true ∧ u = s.sr ∧ t = s) ∨
      (admittedRate u = true ∧ (s.cfg = false ∨ u ≠ s.sr) ∧ t = construct actual u s) := by
  unfold execSetRate at h
  split_ifs at h with h1 h2
  · exact .inl ⟨by simpa using h1, raiseError_next h⟩
  · simp only [Bool.and_eq_true, decide_eq_true_eq] at h2
    exact .inr (.inl ⟨by simpa using h1, h2.1, h2.2, by simpa [eq_comm] using h⟩)
  · refine .inr (.inr ⟨by simpa using h1, ?_, by simpa [eq_comm] using h⟩)
    by_cases hu : u = s.sr
    · left; simpa [hu] using h2
    · right; exact hu

/-- What SAMPLE can answer (R291). -/
theorem execSample_next {s t : State} (h : execSample s = .next t) :
    (s.cfg = true ∧ linesInRange s = true ∧ t = sampleFrame actual s) ∨
      (s.cfg = false ∧ t = setFlag .uncfg s) := by
  rcases withUnits_next h with ⟨hc, h⟩ | h
  · split_ifs at h with hl
    exact .inl ⟨hc, hl, by simpa [eq_comm] using h⟩
  · exact .inr h

/-! ### Fetch and step -/

/-- A fetch takes the head of the stream and nothing else. -/
theorem fetchWord_some {s s' : State} {w : Word} (h : fetchWord s = some (w, s')) :
    s.stream = w :: s'.stream ∧ s' = { s with stream := s'.stream } := by
  unfold fetchWord at h
  cases hs : s.stream with
  | nil => simp [hs] at h
  | cons w' rest =>
    simp only [hs, Option.some.injEq, Prod.mk.injEq] at h
    obtain ⟨rfl, rfl⟩ := h
    exact ⟨rfl, rfl⟩

/-- Everything a step that answers a next state can have done (R110, R112). -/
theorem step_next {s t : State} (h : step s = .next t) :
    (s.stream = [] ∧ t = s) ∨
      (∃ w rest i, s.stream = w :: rest ∧ decode w = .ok i ∧ exec i { s with stream := rest } = .next t) ∨
      (∃ w rest e, s.stream = w :: rest ∧ decode w = .error e ∧
        t = setFlag .illegal { s with stream := rest }) := by
  unfold step fetchWord at h
  cases hs : s.stream with
  | nil =>
    simp only [hs] at h
    exact .inl ⟨rfl, by simpa [eq_comm] using h⟩
  | cons w rest =>
    simp only [hs, runWord] at h
    cases hd : decode w with
    | ok i =>
      rw [hd] at h
      exact .inr (.inl ⟨w, rest, i, rfl, hd, h⟩)
    | error e =>
      rw [hd] at h
      exact .inr (.inr ⟨w, rest, e, rfl, hd, raiseError_next h⟩)

/-! ### Commands -/

/-- Everything a command that answers a next state can have done: raised an error, nothing, cleared the flags, built the
units, or, with units, one of the effects of the note commands, SAMPLE and the setters. -/
theorem exec_next {i : Instr} {s t : State} (h : exec i s = .next t) :
    (∃ e, t = setFlag e s) ∨ t = s ∨ (i = .clrErr ∧ t = clearFlags s) ∨
      (∃ u, i = .setRate u ∧ admittedRate u = true ∧ t = construct actual u s) ∨
      (s.cfg = true ∧
        ((∃ ch n v, i = .noteOn ch n v ∧ t = noteOn actual n v s) ∨
          (∃ ch n v, i = .noteOff ch n v ∧ t = noteOff n s) ∨
          (i = .sample ∧ linesInRange s = true ∧ t = sampleFrame actual s) ∨
          (∃ f, setterOperand i = some f ∧ isNaN f = false ∧
            (t = setRoom f s ∨ t = setDamp f s ∨
              (∃ w d x, t = { s with rv := { s.rv with wet := w, dry := d, width := x } } ∧
                (w = s.rv.wet ∨ w = clampUnit f) ∧ (d = s.rv.dry ∨ d = clampUnit f) ∧
                (x = s.rv.width ∨ x = clampUnit f)) ∨
              t = setThresh actual f s ∨ t = setAttack actual f s ∨ t = setRelease actual f s ∨
              t = setMakeup actual f s)))) := by
  cases i with
  | nop => right; left; simpa [exec, execNop, eq_comm] using h
  | clrErr => right; right; left; exact ⟨rfl, by simpa [exec, execClrErr, eq_comm] using h⟩
  | setRate u =>
    rcases execSetRate_next h with ⟨_, h⟩ | ⟨_, _, _, h⟩ | ⟨h1, _, h⟩
    · exact .inl ⟨_, h⟩
    · exact .inr (.inl h)
    · exact .inr (.inr (.inr (.inl ⟨u, rfl, h1, h⟩)))
  | sample =>
    rcases execSample_next h with ⟨h1, h2, h3⟩ | ⟨_, h⟩
    · right; right; right; right; exact ⟨h1, by simp [h2, h3]⟩
    · exact .inl ⟨_, h⟩
  | noteOn ch n v =>
    simp only [exec, execNoteOn] at h
    rcases withUnits_next h with ⟨hc, h⟩ | ⟨_, h⟩
    · right; right; right; right; exact ⟨hc, .inl ⟨ch, n, v, rfl, by simpa [eq_comm] using h⟩⟩
    · exact .inl ⟨_, h⟩
  | noteOff ch n v =>
    simp only [exec, execNoteOff] at h
    rcases withUnits_next h with ⟨hc, h⟩ | ⟨_, h⟩
    · right; right; right; right; exact ⟨hc, .inr (.inl ⟨ch, n, v, rfl, by simpa [eq_comm] using h⟩)⟩
    · exact .inl ⟨_, h⟩
  | setRoom f =>
    rcases withF32_next h with ⟨hc, hn, h⟩ | ⟨_, _, h⟩ | ⟨_, h⟩
    · right; right; right; right; exact ⟨hc, .inr (.inr (.inr ⟨f, rfl, hn, .inl h⟩))⟩
    · exact .inl ⟨_, h⟩
    · exact .inl ⟨_, h⟩
  | setDamp f =>
    rcases withF32_next h with ⟨hc, hn, h⟩ | ⟨_, _, h⟩ | ⟨_, h⟩
    · right; right; right; right; exact ⟨hc, .inr (.inr (.inr ⟨f, rfl, hn, .inr (.inl h)⟩))⟩
    · exact .inl ⟨_, h⟩
    · exact .inl ⟨_, h⟩
  | setWet f =>
    simp only [exec, execSetWet] at h
    rcases withF32_next h with ⟨hc, hn, h⟩ | ⟨_, _, h⟩ | ⟨_, h⟩
    · right; right; right; right; exact ⟨hc, .inr (.inr (.inr
        ⟨f, rfl, hn, .inr (.inr (.inl ⟨_, _, _, h, .inr rfl, .inl rfl, .inl rfl⟩))⟩))⟩
    · exact .inl ⟨_, h⟩
    · exact .inl ⟨_, h⟩
  | setDry f =>
    simp only [exec, execSetDry] at h
    rcases withF32_next h with ⟨hc, hn, h⟩ | ⟨_, _, h⟩ | ⟨_, h⟩
    · right; right; right; right; exact ⟨hc, .inr (.inr (.inr
        ⟨f, rfl, hn, .inr (.inr (.inl ⟨_, _, _, h, .inl rfl, .inr rfl, .inl rfl⟩))⟩))⟩
    · exact .inl ⟨_, h⟩
    · exact .inl ⟨_, h⟩
  | setWidth f =>
    simp only [exec, execSetWidth] at h
    rcases withF32_next h with ⟨hc, hn, h⟩ | ⟨_, _, h⟩ | ⟨_, h⟩
    · right; right; right; right; exact ⟨hc, .inr (.inr (.inr
        ⟨f, rfl, hn, .inr (.inr (.inl ⟨_, _, _, h, .inl rfl, .inl rfl, .inr rfl⟩))⟩))⟩
    · exact .inl ⟨_, h⟩
    · exact .inl ⟨_, h⟩
  | setThresh f =>
    rcases withF32_next h with ⟨hc, hn, h⟩ | ⟨_, _, h⟩ | ⟨_, h⟩
    · right; right; right; right; exact ⟨hc, .inr (.inr (.inr ⟨f, rfl, hn, by simp [h]⟩))⟩
    · exact .inl ⟨_, h⟩
    · exact .inl ⟨_, h⟩
  | setAttack f =>
    rcases withF32_next h with ⟨hc, hn, h⟩ | ⟨_, _, h⟩ | ⟨_, h⟩
    · right; right; right; right; exact ⟨hc, .inr (.inr (.inr ⟨f, rfl, hn, by simp [h]⟩))⟩
    · exact .inl ⟨_, h⟩
    · exact .inl ⟨_, h⟩
  | setRelease f =>
    rcases withF32_next h with ⟨hc, hn, h⟩ | ⟨_, _, h⟩ | ⟨_, h⟩
    · right; right; right; right; exact ⟨hc, .inr (.inr (.inr ⟨f, rfl, hn, by simp [h]⟩))⟩
    · exact .inl ⟨_, h⟩
    · exact .inl ⟨_, h⟩
  | setMakeup f =>
    rcases withF32_next h with ⟨hc, hn, h⟩ | ⟨_, _, h⟩ | ⟨_, h⟩
    · right; right; right; right; exact ⟨hc, .inr (.inr (.inr ⟨f, rfl, hn, by simp [h]⟩))⟩
    · exact .inl ⟨_, h⟩
    · exact .inl ⟨_, h⟩

/-- A property that no word on the port and no error flag matters to is kept by every step if every command keeps
it. -/
theorem step_keeps {P : State → Prop} (hs : ∀ s r, P s → P { s with stream := r })
    (hf : ∀ s e, P s → P (setFlag e s))
    (hx : ∀ i s t, P s → exec i s = .next t → P t) {s t : State} (hp : P s) (h : step s = .next t) : P t := by
  rcases step_next h with ⟨_, rfl⟩ | ⟨w, r, i, _, _, h⟩ | ⟨w, r, e, _, _, rfl⟩
  · exact hp
  · exact hx i _ t (hs s r hp) h
  · exact hf _ _ (hs s r hp)

end Sys2Proof.Machine
end

