-- ==== Sys2Proof/Laws/PerInstr.lean ====
section
/-! SUPPORT. Laws/PerInstr.lean: what is shown of every command, one lemma per constructor of `Instr`. -/

namespace Sys2Proof.Laws.EncodedFixedBits

/-- The word of a command has the row's opcode, and under the mask of the row's format it is the row's pattern: every
reserved bit is 0 (spec/30_encoding.md R101 to R105). -/
def Statement (i : Instr) : Prop :=
  opcField (encode i) = i.op.code ∧ encode i &&& i.op.format.mask = i.op.pattern

theorem nop : Statement .nop :=
  ⟨opcField_encodeZ .nop, mask_encodeZ .nop⟩

theorem noteOn (ch : Channel) (note : Note) (vel : Velocity) : Statement (.noteOn ch note vel) :=
  ⟨opcField_encodeN .noteOn ch note vel, mask_encodeN .noteOn ch note vel⟩

theorem noteOff (ch : Channel) (note : Note) (vel : Velocity) : Statement (.noteOff ch note vel) :=
  ⟨opcField_encodeN .noteOff ch note vel, mask_encodeN .noteOff ch note vel⟩

theorem setRoom (f : F32) : Statement (.setRoom f) :=
  ⟨opcField_encodeImm .setRoom f, mask_encodeF .setRoom f⟩

theorem setDamp (f : F32) : Statement (.setDamp f) :=
  ⟨opcField_encodeImm .setDamp f, mask_encodeF .setDamp f⟩

theorem setWet (f : F32) : Statement (.setWet f) :=
  ⟨opcField_encodeImm .setWet f, mask_encodeF .setWet f⟩

theorem setDry (f : F32) : Statement (.setDry f) :=
  ⟨opcField_encodeImm .setDry f, mask_encodeF .setDry f⟩

theorem setWidth (f : F32) : Statement (.setWidth f) :=
  ⟨opcField_encodeImm .setWidth f, mask_encodeF .setWidth f⟩

theorem setThresh (f : F32) : Statement (.setThresh f) :=
  ⟨opcField_encodeImm .setThresh f, mask_encodeF .setThresh f⟩

theorem setAttack (f : F32) : Statement (.setAttack f) :=
  ⟨opcField_encodeImm .setAttack f, mask_encodeF .setAttack f⟩

theorem setRelease (f : F32) : Statement (.setRelease f) :=
  ⟨opcField_encodeImm .setRelease f, mask_encodeF .setRelease f⟩

theorem setMakeup (f : F32) : Statement (.setMakeup f) :=
  ⟨opcField_encodeImm .setMakeup f, mask_encodeF .setMakeup f⟩

theorem setRate (u : BitVec 32) : Statement (.setRate u) :=
  ⟨opcField_encodeImm .setRate u, mask_encodeU .setRate u⟩

theorem clrErr : Statement .clrErr :=
  ⟨opcField_encodeZ .clrErr, mask_encodeZ .clrErr⟩

theorem sample : Statement .sample :=
  ⟨opcField_encodeZ .sample, mask_encodeZ .sample⟩

end Sys2Proof.Laws.EncodedFixedBits
end

