-- ==== Sys2Proof/Laws/Reference.lean ====
section
/-! SUPPORT. Laws/Reference.lean: every real has a correctly rounded binary32 value, so reference configurations exist
(spec/00_scope.md R15). -/

namespace Sys2Proof.Machine

/-! ### Packed patterns -/

theorem fpack_even (neg : Bool) {m : Nat} (h : m < 2 ^ 31) : (fpack neg m).toNat % 2 = m % 2 := by
  rw [fpack_toNat neg h]; split_ifs <;> omega

/-! ### Rounding a real -/

/-- The units of the pattern of magnitude `m`. -/
noncomputable def unitsOf (m : Nat) : ℝ := (funits (fpack false m) : ℝ)

theorem funits_eq_unitsOf (x : F32) : (funits x : ℝ) = unitsOf (fmag x) := by
  unfold unitsOf
  rw [funits_congr (a := x) (b := fpack false (fmag x)) (fmag_fpack false (fmag_lt x)).symm]

theorem unitsOf_zero : unitsOf 0 = 0 := by
  have : funits (fpack false 0) = 0 := by decide
  simp [unitsOf, this]

theorem unitsOf_lt {m n : Nat} (h : m < n) (hn : n < 0x7F800000) : unitsOf m < unitsOf n := by
  have hm : fmag (fpack false m) = m := fmag_fpack false (by omega)
  have hn' : fmag (fpack false n) = n := fmag_fpack false (by omega)
  have : funits (fpack false m) < funits (fpack false n) :=
    funits_lt (by simp [isFinite, hn', hn]) (by omega)
  unfold unitsOf; exact_mod_cast this

theorem unitsOf_le {m n : Nat} (h : m ≤ n) (hn : n < 0x7F800000) : unitsOf m ≤ unitsOf n := by
  rcases Nat.lt_or_eq_of_le h with h | rfl
  · exact (unitsOf_lt h hn).le
  · exact le_rfl

/-- Of a number of units that is not negative, some finite magnitude is nearest, ties to even. -/
theorem exists_nearest_magnitude {u : ℝ} (hu : 0 ≤ u) :
    ∃ m, m < 0x7F800000 ∧ ∀ v : ℝ, (∃ n, n < 0x7F800000 ∧ (v = unitsOf n ∨ v = -unitsOf n)) →
      |unitsOf m - u| < |v - u| ∨ (|unitsOf m - u| = |v - u| ∧ (unitsOf m = v ∨ m % 2 = 0)) := by
  classical
  set p : Nat → Prop := fun m => unitsOf m ≤ u with hp
  set m := Nat.findGreatest p 0x7F7FFFFF with hm
  have hmle : m ≤ 0x7F7FFFFF := Nat.findGreatest_le _
  have hlow : unitsOf m ≤ u := Nat.findGreatest_spec (P := p) (Nat.zero_le _) (by simpa [hp, unitsOf_zero] using hu)
  have hpos : ∀ n, n < 0x7F800000 → 0 ≤ unitsOf n := fun n hn => by
    rw [← unitsOf_zero]; exact unitsOf_le (Nat.zero_le n) hn
  have below : ∀ v, (∃ n, n < 0x7F800000 ∧ (v = unitsOf n ∨ v = -unitsOf n)) →
      v ≤ unitsOf m ∨ (m < 0x7F7FFFFF ∧ unitsOf (m + 1) ≤ v) := by
    rintro v ⟨n, hn, rfl | rfl⟩
    · rcases Nat.lt_or_ge m n with h | h
      · exact .inr ⟨by omega, unitsOf_le h hn⟩
      · exact .inl (unitsOf_le h (by omega))
    · left; linarith [hpos n hn, hpos m (by omega)]
  by_cases hlast : m < 0x7F7FFFFF
  · have hhigh : u < unitsOf (m + 1) := by
      by_contra hc
      have := Nat.le_findGreatest (P := p) (m := m + 1) (n := 0x7F7FFFFF) (by omega) (not_lt.mp hc)
      omega
    have dlow : |unitsOf m - u| = u - unitsOf m := by rw [abs_of_nonpos (by linarith)]; ring
    have dhigh : |unitsOf (m + 1) - u| = unitsOf (m + 1) - u := abs_of_nonneg (by linarith)
    by_cases hc : u - unitsOf m < unitsOf (m + 1) - u ∨ (u - unitsOf m = unitsOf (m + 1) - u ∧ m % 2 = 0)
    · refine ⟨m, by omega, fun v hv => ?_⟩
      rw [dlow]
      rcases below v hv with h | ⟨-, h⟩
      · rw [abs_of_nonpos (by linarith)]
        rcases h.lt_or_eq with h | h
        · left; linarith
        · right; exact ⟨by linarith, .inl h.symm⟩
      · rw [abs_of_nonneg (by linarith)]
        rcases hc with hc | ⟨hc, he⟩
        · left; linarith
        · rcases h.lt_or_eq with h | h
          · left; linarith
          · right; exact ⟨by linarith, .inr he⟩
    · have hge : unitsOf (m + 1) - u ≤ u - unitsOf m := by
        by_contra h; exact hc (.inl (not_le.mp h))
      have hodd : unitsOf (m + 1) - u = u - unitsOf m → (m + 1) % 2 = 0 := fun h => by
        by_contra h'; exact hc (.inr ⟨h.symm, by omega⟩)
      refine ⟨m + 1, by omega, fun v hv => ?_⟩
      rw [dhigh]
      rcases below v hv with h | ⟨-, h⟩
      · rw [abs_of_nonpos (by linarith)]
        rcases h.lt_or_eq with h | h
        · left; linarith
        · rcases hge.lt_or_eq with hge | hge
          · left; linarith
          · right; exact ⟨by linarith, .inr (hodd hge)⟩
      · rw [abs_of_nonneg (by linarith)]
        rcases h.lt_or_eq with h | h
        · left; linarith
        · right; exact ⟨by linarith, .inl h⟩
  · refine ⟨m, by omega, fun v hv => ?_⟩
    rcases below v hv with h | ⟨h, -⟩
    · rw [abs_of_nonpos (by linarith), abs_of_nonpos (by linarith)]
      rcases h.lt_or_eq with h | h
      · left; linarith
      · right; exact ⟨by linarith, .inl h.symm⟩
    · exact absurd h hlast

/-- The value of a finite pattern, taken with the sign `neg`, is its units or their opposite. -/
theorem fint_signed (neg : Bool) (y : F32) :
    (fint y : ℝ) = (if neg then -1 else 1) * unitsOf (fmag y) ∨
      (fint y : ℝ) = (if neg then -1 else 1) * -unitsOf (fmag y) := by
  rw [← funits_eq_unitsOf]
  unfold fint
  cases neg <;> cases fsign y <;> simp

/-- Every real has a correctly rounded value (R15). -/
theorem exists_isRounded (r : ℝ) : ∃ x, IsRounded r x := by
  rcases le_or_gt (overflowBound : ℝ) r with h | h
  · have : (0 : ℝ) < overflowBound := by norm_num [overflowBound]
    exact ⟨fInf, fun _ => by decide, fun h' => by linarith, .inr (.inl ⟨h, rfl⟩)⟩
  rcases le_or_gt r (-(overflowBound : ℝ)) with h' | h'
  · have : (0 : ℝ) < overflowBound := by norm_num [overflowBound]
    exact ⟨fneg fInf, fun h' => by linarith, fun _ => by decide, .inr (.inr ⟨h', rfl⟩)⟩
  classical
  set neg : Bool := decide (r < 0) with hneg
  set σ : ℝ := if neg then -1 else 1 with hσ
  have hσr : σ * |r| = r := by
    by_cases hr : r < 0
    · simp [hσ, hneg, hr, abs_of_neg hr]
    · simp [hσ, hneg, hr, abs_of_nonneg (not_lt.mp hr)]
  have hσ1 : |σ| = 1 := by rw [hσ]; split_ifs <;> simp
  have hone : (0 : ℝ) < (unitsPerOne : ℝ) := by norm_num [unitsPerOne]
  obtain ⟨m, hm, hnear⟩ := exists_nearest_magnitude (u := |r| * unitsPerOne) (by positivity)
  have dist : ∀ (y : F32) (v : ℝ), (fint y : ℝ) = σ * v →
      |(toRat y : ℝ) - r| = |v - |r| * unitsPerOne| / unitsPerOne := by
    intro y v hv
    have : (toRat y : ℝ) - r = σ * (v - |r| * unitsPerOne) / unitsPerOne := by
      have hy : (toRat y : ℝ) = (fint y : ℝ) / (unitsPerOne : ℝ) := by simp [toRat]
      rw [hy, hv]; nth_rewrite 1 [← hσr]; field_simp
    rw [this, abs_div, abs_mul, hσ1, one_mul, abs_of_pos hone]
  have hx : (fint (fpack neg m) : ℝ) = σ * unitsOf m := by
    have hu := funits_eq_unitsOf (fpack neg m)
    rw [fmag_fpack neg (by omega)] at hu
    rw [← hu]; unfold fint; rw [fsign_fpack neg (by omega)]
    rw [hσ]; split_ifs <;> simp
  refine ⟨fpack neg m, fun hr => ?_, fun hr => ?_, .inl ⟨abs_lt.mpr ⟨h', h⟩, ?_, fun y hy => ?_⟩⟩
  · rw [fsign_fpack neg (by omega), hneg]; simp [hr.le]
  · rw [fsign_fpack neg (by omega), hneg]; simp [hr]
  · simp [isFinite, fmag_fpack neg (show m < 2 ^ 31 by omega), hm]
  · have hmag : fmag y < 0x7F800000 := by simpa [isFinite] using hy
    obtain ⟨v, hv, hn⟩ : ∃ v, (fint y : ℝ) = σ * v ∧ (v = unitsOf (fmag y) ∨ v = -unitsOf (fmag y)) := by
      rcases fint_signed neg y with h | h
      · exact ⟨_, h, .inl rfl⟩
      · exact ⟨_, h, .inr rfl⟩
    rw [dist _ _ hx, dist y v hv]
    rcases hnear v ⟨fmag y, hmag, hn⟩ with h | ⟨h, he⟩
    · left; exact div_lt_div_of_pos_right h hone
    · refine .inr ⟨by rw [h], ?_⟩
      rcases he with he | he
      · left
        have : (fint (fpack neg m) : ℝ) = (fint y : ℝ) := by rw [hx, hv, he]
        unfold toRat; rw [Int.cast_injective this]
      · right; rw [fpack_even neg (by omega)]; exact he

/-- A pattern is a correctly rounded value of the number it stands for. -/
theorem isRounded_self {x : F32} (h : isFinite x = true) (hx : 0 ≤ toRat x) (hs : fsign x = false)
    (hb : |(toRat x : ℝ)| < (overflowBound : ℝ)) : IsRounded (toRat x : ℝ) x := by
  have h0 : (0 : ℝ) ≤ (toRat x : ℝ) := by exact_mod_cast hx
  refine ⟨fun _ => hs, fun h' => by linarith, .inl ⟨hb, h, fun y _ => ?_⟩⟩
  rw [sub_self, abs_zero]
  rcases eq_or_ne (toRat y) (toRat x) with h | h
  · right; simp [h]
  · left; rw [abs_pos, sub_ne_zero]; exact_mod_cast h

theorem toRat_f0 : toRat f0 = 0 := by
  have : fint f0 = 0 := by decide
  simp [toRat, this]

theorem toRat_f1 : toRat f1 = 1 := by
  have : fint f1 = (unitsPerOne : Int) := by decide
  simp [toRat, this, unitsPerOne]

theorem isRounded_zero : IsRounded 0 f0 := by
  have := isRounded_self (x := f0) (by decide) (by rw [toRat_f0]) (by decide)
    (by rw [toRat_f0]; norm_num [overflowBound])
  simpa [toRat_f0] using this

theorem isRounded_one : IsRounded 1 f1 := by
  have := isRounded_self (x := f1) (by decide) (by rw [toRat_f1]; norm_num) (by decide)
    (by rw [toRat_f1]; norm_num [overflowBound])
  simpa [toRat_f1] using this

/-- There is a reference configuration: what `IsReference` asks of Sin, Exp and Pow can be had (R15). -/
theorem exists_isReference : ∃ c, IsReference c := by
  classical
  choose round hround using exists_isRounded
  let pow : F32 → F32 → F32 := fun a b =>
    if a = f1 then f1
    else if a = f0 then (if 0 < toRat b then f0 else f1)
    else if h : toRat a < 0 ∧ ∃ n : ℤ, toRat b = n then round ((toRat a : ℝ) ^ h.2.choose)
    else round ((toRat a : ℝ) ^ (toRat b : ℝ))
  refine ⟨reference { (default : Config) with
    sin := fun x => if x = f0 then f0 else round (Real.sin (toRat x))
    exp := fun x => round (Real.exp (toRat x))
    pow := pow }, rfl, ?_, ?_, ?_, ?_, ?_, ?_, ?_⟩
  · intro x _
    show IsRounded _ (if x = f0 then f0 else round (Real.sin (toRat x)))
    split_ifs with hx
    · rw [hx, toRat_f0]; simpa using isRounded_zero
    · exact hround _
  · exact fun x _ => hround _
  · intro a b _ _ hab
    show IsRounded _ (pow a b)
    simp only [pow]
    split_ifs with h1 h0 hb h
    · rw [h1, toRat_f1]; simpa using isRounded_one
    · have hb' : (toRat b : ℝ) ≠ 0 := by exact_mod_cast hb.ne'
      rw [h0, toRat_f0]; simpa [Real.zero_rpow hb'] using isRounded_zero
    · rw [h0, toRat_f0] at hab; simp at hab; exact absurd hab hb
    · rcases hab with hab | hab
      · exact absurd h.1 (not_lt.mpr hab.le)
      · exact absurd h.1 (by rw [hab.1]; exact lt_irrefl _)
    · exact hround _
  · intro a b n _ _ ha hb
    show IsRounded _ (pow a b)
    simp only [pow]
    have hn : ∃ n : ℤ, toRat b = n := ⟨n, hb⟩
    split_ifs with h1 h0 _ h
    · rw [h1, toRat_f1] at ha; norm_num at ha
    · rw [h0, toRat_f0] at ha; exact absurd ha (lt_irrefl _)
    · rw [h0, toRat_f0] at ha; exact absurd ha (lt_irrefl _)
    · have : n = h.2.choose := by
        have := hb.symm.trans h.2.choose_spec
        exact_mod_cast this
      rw [this]; exact hround _
    · exact absurd ⟨ha, hn⟩ h
  · show (if f0 = f0 then f0 else round (Real.sin (toRat f0))) = f0
    exact if_pos rfl
  · intro b _ hb
    show pow f0 b = f0
    have : f0 ≠ f1 := by decide
    simp [pow, this, hb]
  · intro b; show pow f1 b = f1; simp [pow]

end Sys2Proof.Machine
end

