-- ==== Sys2Proof/Laws/Voice.lean ====
section
/-! SUPPORT. Laws/Voice.lean: what one sample of an envelope and of a voice can change (spec/40_envelope.md R135 to R141,
spec/41_oscillator.md R165 to R169). -/

namespace Sys2Proof.Machine

/-- An envelope step writes the state and the level only (R135). -/
theorem envAdvance_eq (e : Envelope) :
    envAdvance e = { e with state := (envAdvance e).state, level := (envAdvance e).level } := by
  unfold envAdvance
  cases e with
  | mk state level sustainLevel velocityLevel attackRate decayRate releaseRate sustainDecayRate =>
    cases state
    · rfl
    · unfold envAttack; rcases attackRate with _ | r
      · rfl
      · simp only; split_ifs <;> rfl
    · unfold envDecay; rcases decayRate with _ | r
      · rfl
      · simp only; split_ifs <;> rfl
    · unfold envSustain; simp only; split_ifs <;> rfl
    · unfold envReleaseStep; rcases releaseRate with _ | r
      · rfl
      · simp only; split_ifs <;> rfl

@[simp] theorem envAdvance_sustainLevel (e : Envelope) : (envAdvance e).sustainLevel = e.sustainLevel := by
  rw [envAdvance_eq]
@[simp] theorem envAdvance_velocityLevel (e : Envelope) : (envAdvance e).velocityLevel = e.velocityLevel := by
  rw [envAdvance_eq]
@[simp] theorem envAdvance_attackRate (e : Envelope) : (envAdvance e).attackRate = e.attackRate := by
  rw [envAdvance_eq]
@[simp] theorem envAdvance_decayRate (e : Envelope) : (envAdvance e).decayRate = e.decayRate := by
  rw [envAdvance_eq]
@[simp] theorem envAdvance_releaseRate (e : Envelope) : (envAdvance e).releaseRate = e.releaseRate := by
  rw [envAdvance_eq]
@[simp] theorem envAdvance_sustainDecayRate (e : Envelope) :
    (envAdvance e).sustainDecayRate = e.sustainDecayRate := by
  rw [envAdvance_eq]

/-- The three things one sample of a voice can be (R167): nothing, a deactivation, or a sounding sample. -/
theorem voiceProcess_cases (c : Config) (srF : F32) (i : Fin 8) (v : Voice) :
    (v.active = false ∧ envActive v.env = false ∧ voiceProcess c srF i v = (v, f0)) ∨
      ((v.active = true ∨ envActive v.env = true) ∧ envActive (envAdvance v.env) = false ∧
        voiceProcess c srF i v = ({ v with env := envAdvance v.env, active := false }, f0)) ∨
      ((v.active = true ∨ envActive v.env = true) ∧ envActive (envAdvance v.env) = true ∧
        voiceProcess c srF i v =
          (voiceAdvance c srF i { v with env := envAdvance v.env },
            voiceOutput c i (voiceAdvance c srF i { v with env := envAdvance v.env })
              (envOutput (envAdvance v.env)))) := by
  unfold voiceProcess envProcess
  cases ha : v.active <;> cases he : envActive v.env <;>
    cases hn : envActive (envAdvance v.env) <;> simp [hn]

/-- One sample of a voice keeps its key, its phase step and its velocity (R167 to R169). -/
theorem voiceProcess_keeps (c : Config) (srF : F32) (i : Fin 8) (v : Voice) :
    (voiceProcess c srF i v).1.key = v.key ∧ (voiceProcess c srF i v).1.phaseDelta = v.phaseDelta ∧
      (voiceProcess c srF i v).1.vnorm = v.vnorm := by
  rcases voiceProcess_cases c srF i v with ⟨-, -, h⟩ | ⟨-, -, h⟩ | ⟨-, -, h⟩ <;> rw [h] <;>
    exact ⟨rfl, rfl, rfl⟩

/-- The envelope after one sample of a voice: untouched, or advanced once (R167). -/
theorem voiceProcess_env (c : Config) (srF : F32) (i : Fin 8) (v : Voice) :
    (voiceProcess c srF i v).1.env = v.env ∨ (voiceProcess c srF i v).1.env = envAdvance v.env := by
  rcases voiceProcess_cases c srF i v with ⟨-, -, h⟩ | ⟨-, -, h⟩ | ⟨-, -, h⟩ <;> rw [h]
  · exact .inl rfl
  · exact .inr rfl
  · exact .inr rfl

end Sys2Proof.Machine
end

