-- ==== Sys2Proof/Machine/Assembler.lean ====
section
/-! DEFINITION. Machine/Assembler.lean: the assembler syntax of spec/30_encoding.md R118 and the text of the
pseudo-instructions of R119.

Text is a list of characters. What R118 and R119 leave open (white space, the form of a number, the case of a note's
letter and of a pseudo-instruction's name, sharps, brackets, what may stand inside CALLBACK) is log 14. -/

namespace Sys2Proof.Machine

/-- Why a text does not assemble. -/
inductive AsmError where
  /-- The line begins with no mnemonic and no pseudo-instruction. -/
  | unknownMnemonic
  /-- The operands are not of the mnemonic's format, or one is out of its field's range. -/
  | badOperands
  /-- A bracket of CALLBACK without its partner. -/
  | badCallback
deriving DecidableEq, Repr

/-- The opening bracket of CALLBACK. -/
def openBrace : Char := Char.ofNat 123

/-- The closing bracket of CALLBACK. -/
def closeBrace : Char := Char.ofNat 125

/-- A space, a tab or a carriage return. -/
def isBlank (ch : Char) : Bool := ch == ' ' || ch == '\t' || ch == '\r'

/-- The line without its leading blanks. -/
def skipBlanks : List Char → List Char
  | [] => []
  | ch :: t => if isBlank ch then skipBlanks t else ch :: t

/-- The text without blanks at either end. -/
def trimBlanks (t : List Char) : List Char := (skipBlanks (skipBlanks t).reverse).reverse

/-- The line up to its comment (R118). -/
def dropComment : List Char → List Char
  | [] => []
  | ch :: t => if ch == ';' then [] else ch :: dropComment t

/-- The pieces of a text between separators; always at least one piece. -/
def splitOn (isSep : Char → Bool) : List Char → List (List Char)
  | [] => [[]]
  | ch :: t =>
      match splitOn isSep t with
      | [] => [[ch]]
      | piece :: rest => if isSep ch then [] :: piece :: rest else (ch :: piece) :: rest

/-- A bracket stands on a line of its own: line breaks are put around it. -/
def isolateBraces : List Char → List Char
  | [] => []
  | ch :: t =>
      if ch == openBrace || ch == closeBrace then '\n' :: ch :: '\n' :: isolateBraces t
      else ch :: isolateBraces t

/-- A letter in upper case: mnemonics are case-insensitive (R118). -/
def upper (ch : Char) : Char :=
  if 'a'.toNat ≤ ch.toNat ∧ ch.toNat ≤ 'z'.toNat then Char.ofNat (ch.toNat - 32) else ch

/-- The value of a decimal digit. -/
def digitVal (ch : Char) : Option Nat :=
  if '0'.toNat ≤ ch.toNat ∧ ch.toNat ≤ '9'.toNat then some (ch.toNat - '0'.toNat) else none

/-- The value of a hexadecimal digit. -/
def hexVal (ch : Char) : Option Nat :=
  match digitVal ch with
  | some d => some d
  | none =>
      if 'A'.toNat ≤ (upper ch).toNat ∧ (upper ch).toNat ≤ 'F'.toNat then
        some ((upper ch).toNat - 'A'.toNat + 10)
      else none

/-- A run of digits to base `base`, after a number already read. -/
def readDigits (val : Char → Option Nat) (base : Nat) : Nat → List Char → Option Nat
  | acc, [] => some acc
  | acc, ch :: t =>
      match val ch with
      | some d => readDigits val base (acc * base + d) t
      | none => none

/-- A natural number, decimal or `0x` hexadecimal. -/
def readNat : List Char → Option Nat
  | [] => none
  | '0' :: 'x' :: ch :: t => readDigits hexVal 16 0 (ch :: t)
  | t => readDigits digitVal 10 0 t

/-- A decimal without sign: digits, and digits after a point. Its value is the first number over the second. -/
def readFraction (t : List Char) : Option (Nat × Nat) :=
  match splitOn (fun ch => ch == '.') t with
  | [whole] => if whole = [] then none else (readDigits digitVal 10 0 whole).map fun n => (n, 1)
  | [whole, part] =>
      if whole = [] ∨ part = [] then none
      else (readDigits digitVal 10 0 (whole ++ part)).map fun n => (n, 10 ^ part.length)
  | _ => none

/-- An f32 operand: a `0x` pattern, or a decimal, which stands for the nearest binary32 (R118, R19). -/
def readF32 : List Char → Option F32
  | '0' :: 'x' :: t =>
      match readNat ('0' :: 'x' :: t) with
      | some n => if n < 2 ^ 32 then some (BitVec.ofNat 32 n) else none
      | none => none
  | '-' :: t => (readFraction t).map fun q => fround true (q.1 * unitsPerOne) q.2
  | t => (readFraction t).map fun q => decimal q.1 q.2

/-- The semitone of a note letter above its octave's C (R118). DESIGN CHOICE (log 14): the letter may be in either case;
R118 makes mnemonics case-insensitive and is silent on note names. -/
def letterSemitone (ch : Char) : Option Nat :=
  match upper ch with
  | 'C' => some 0
  | 'D' => some 2
  | 'E' => some 4
  | 'F' => some 5
  | 'G' => some 7
  | 'A' => some 9
  | 'B' => some 11
  | _ => none

/-- An octave from −1 to 9, plus one. -/
def octaveIndex : List Char → Option Nat
  | ['-', '1'] => some 0
  | [ch] => (digitVal ch).map (· + 1)
  | _ => none

/-- A note name with octave: `C-1` is 0, `A4` is 69 (R118); a sharp raises it by one (log 14). -/
def readNoteName : List Char → Option Nat
  | ch :: '#' :: t =>
      match letterSemitone ch, octaveIndex t with
      | some k, some o => some (12 * o + k + 1)
      | _, _ => none
  | ch :: t =>
      match letterSemitone ch, octaveIndex t with
      | some k, some o => some (12 * o + k)
      | _, _ => none
  | [] => none

/-- A note operand: a number or a name (R118). -/
def readNote (t : List Char) : Option Nat :=
  match readNat t with
  | some n => some n
  | none => readNoteName t

/-- The mnemonic of a row, as characters (R105). -/
def opName : Op → List Char
  | .nop => ['N', 'O', 'P']
  | .noteOn => ['N', 'O', 'T', 'E', '_', 'O', 'N']
  | .noteOff => ['N', 'O', 'T', 'E', '_', 'O', 'F', 'F']
  | .setRoom => ['S', 'E', 'T', '_', 'R', 'O', 'O', 'M']
  | .setDamp => ['S', 'E', 'T', '_', 'D', 'A', 'M', 'P']
  | .setWet => ['S', 'E', 'T', '_', 'W', 'E', 'T']
  | .setDry => ['S', 'E', 'T', '_', 'D', 'R', 'Y']
  | .setWidth => ['S', 'E', 'T', '_', 'W', 'I', 'D', 'T', 'H']
  | .setThresh => ['S', 'E', 'T', '_', 'T', 'H', 'R', 'E', 'S', 'H']
  | .setAttack => ['S', 'E', 'T', '_', 'A', 'T', 'T', 'A', 'C', 'K']
  | .setRelease => ['S', 'E', 'T', '_', 'R', 'E', 'L', 'E', 'A', 'S', 'E']
  | .setMakeup => ['S', 'E', 'T', '_', 'M', 'A', 'K', 'E', 'U', 'P']
  | .setRate => ['S', 'E', 'T', '_', 'R', 'A', 'T', 'E']
  | .clrErr => ['C', 'L', 'R', '_', 'E', 'R', 'R']
  | .sample => ['S', 'A', 'M', 'P', 'L', 'E']

/-- The row of a mnemonic written in any case (R118). -/
def opOfName (t : List Char) : Option Op := opTable.find? fun op => opName op == t.map upper

/-- The first word of a line, and what follows it. -/
def splitMnemonic : List Char → List Char × List Char
  | [] => ([], [])
  | ch :: t => if isBlank ch then ([], t) else (ch :: (splitMnemonic t).1, (splitMnemonic t).2)

/-- The comma-separated operands of a line; a line without text has none (R118). -/
def readOperandTexts (t : List Char) : List (List Char) :=
  if trimBlanks t = [] then [] else (splitOn (fun ch => ch == ',') t).map trimBlanks

/-- A command line read as a source command (R118). -/
def readSource (op : Op) (args : List (List Char)) : Option Source :=
  match op.format, args with
  | .z, [] => some (.z op)
  | .n, [ch, note, vel] =>
      match readNat ch, readNote note, readNat vel with
      | some c, some n, some v => some (.n op c n v)
      | _, _, _ => none
  | .f, [f] => (readF32 f).map fun b => .f op b.toNat
  | .u, [u] => (readNat u).map fun r => .u op r
  | _, _ => none

/-- A pseudo-instruction of one line (R119); `none` where the first word names none. DESIGN CHOICE
(log 14): its name may be in either case, as a mnemonic. -/
def readPseudo (name : List Char) (args : List (List Char)) : Option (Option Pseudo) :=
  if name = ['F', 'R', 'A', 'M', 'E', 'S'] then
    some (match args with
      | [n] => (readNat n).map .frames
      | _ => none)
  else if name = ['N', 'O', 'T', 'E', '_', 'O', 'F', 'F', '_', 'A', 'L', 'L'] then
    some (match args with
      | [] => some .noteOffAll
      | _ => none)
  else if name = ['S', 'E', 'T', '_', 'R', 'E', 'V', 'E', 'R', 'B'] then
    some (match args.map readF32 with
      | [some room, some damp, some wet, some dry, some width] =>
          some (.setReverb room damp wet dry width)
      | _ => none)
  else if name = ['S', 'E', 'T', '_', 'L', 'I', 'M', 'I', 'T', 'E', 'R'] then
    some (match args.map readF32 with
      | [some thr, some att, some rel, some mk] => some (.setLimiter thr att rel mk)
      | _ => none)
  else none

/-- The commands of one line: a command, a pseudo-instruction, or nothing (R118, R119). -/
def assembleLine (line : List Char) : Except AsmError (List Instr) :=
  let body := trimBlanks (dropComment line)
  if body = [] then .ok []
  else
    let args := readOperandTexts (splitMnemonic body).2
    match readPseudo ((splitMnemonic body).1.map upper) args with
    | some (some p) => .ok (expandPseudo p)
    | some none => .error .badOperands
    | none =>
        match opOfName (splitMnemonic body).1 with
        | none => .error .unknownMnemonic
        | some op =>
            match (readSource op args).bind Source.toInstr with
            | some i => .ok [i]
            | none => .error .badOperands

/-- The rate and the frame count of a CALLBACK line (R119). -/
def readCallback (line : List Char) : Option (Option (BitVec 32 × Nat)) :=
  let body := trimBlanks (dropComment line)
  if (splitMnemonic body).1.map upper = ['C', 'A', 'L', 'L', 'B', 'A', 'C', 'K'] then
    some (match (readOperandTexts (splitMnemonic body).2).map readNat with
      | [some sr, some n] => if sr < 2 ^ 32 then some (BitVec.ofNat 32 sr, n) else none
      | _ => none)
  else none

/-- Where the assembler stands: outside a CALLBACK, before its opening bracket, or inside it. -/
inductive AsmMode where
  | outside
  | awaiting (sr : BitVec 32) (n : Nat)
  | inside (sr : BitVec 32) (n : Nat) (cmds : List Instr)
deriving DecidableEq, Repr

/-- One line of a program: the mode after it, and the commands it adds. DESIGN CHOICE (log 14): R119 does not say what
the `cmds` of CALLBACK may be; a line inside it may be a command or a one-line pseudo-instruction, and a CALLBACK inside a
CALLBACK does not assemble (`unknownMnemonic`). -/
def assembleStep (mode : AsmMode) (line : List Char) : Except AsmError (AsmMode × List Instr) :=
  let body := trimBlanks (dropComment line)
  match mode with
  | .awaiting sr n =>
      if body = [] then .ok (.awaiting sr n, [])
      else if body = [openBrace] then .ok (.inside sr n [], [])
      else .error .badCallback
  | .inside sr n cmds =>
      if body = [closeBrace] then .ok (.outside, expandPseudo (.callback sr n cmds))
      else
        match assembleLine line with
        | .ok is => .ok (.inside sr n (cmds ++ is), [])
        | .error e => .error e
  | .outside =>
      match readCallback line with
      | some (some (sr, n)) => .ok (.awaiting sr n, [])
      | some none => .error .badOperands
      | none =>
          match assembleLine line with
          | .ok is => .ok (.outside, is)
          | .error e => .error e

/-- The commands of a program's lines (R118). -/
def assembleLines : AsmMode → List (List Char) → Except AsmError (List Instr)
  | .outside, [] => .ok []
  | _, [] => .error .badCallback
  | mode, line :: rest =>
      match assembleStep mode line with
      | .error e => .error e
      | .ok (mode', is) =>
          match assembleLines mode' rest with
          | .ok more => .ok (is ++ more)
          | .error e => .error e

/-- The lines of a text, the brackets outside comments on lines of their own. -/
def programLines (text : List Char) : List (List Char) :=
  splitOn (fun ch => ch == '\n')
    (isolateBraces (List.intercalate ['\n'] ((splitOn (fun ch => ch == '\n') text).map dropComment)))

/-- The command words of an assembler text (R118). -/
def assemble (text : List Char) : Except AsmError (List Word) :=
  match assembleLines .outside (programLines text) with
  | .ok is => .ok (commandWords is)
  | .error e => .error e

end Sys2Proof.Machine
end

