-- ==== Sys2Proof/Tests/Slice0.lean ====
section
/-! SUPPORT. Tests/Slice0.lean: the author's own checks. Expected values are the spec's: the worked encodings of
30_encoding.md R120, the examples of the rules, and the vectors of 95_test_vectors.md. Each `meets_` theorem shows a
concrete state and operands that meet the hypotheses of the obligation it names. -/

namespace Sys2Proof.Tests

open Sys2Proof Sys2Proof.Machine

/-! ### Words, written out from the spec's encodings (R120 and 95_test_vectors.md section 2) -/

theorem test_decode_nop : decode 0x0000000000000000#64 = .ok .nop := by decide
theorem test_decode_note_on : decode 0x010C3C4000000000#64 = .ok (.noteOn 12#4 60#7 64#7) := by decide
theorem test_decode_note_on_ends : decode 0x010F7F7F00000000#64 = .ok (.noteOn 15#4 127#7 127#7) := by
  decide
theorem test_decode_note_off : decode 0x0200450000000000#64 = .ok (.noteOff 0#4 69#7 0#7) := by decide
theorem test_decode_set_room : decode 0x100000003F000000#64 = .ok (.setRoom 0x3F000000#32) := by decide
theorem test_decode_set_damp : decode 0x110000003E4CCCCD#64 = .ok (.setDamp f0p2) := by decide
theorem test_decode_set_wet : decode 0x12000000FF800000#64 = .ok (.setWet 0xFF800000#32) := by decide
theorem test_decode_set_dry : decode 0x130000003F800000#64 = .ok (.setDry f1) := by decide
theorem test_decode_set_width : decode 0x140000003F800000#64 = .ok (.setWidth f1) := by decide
theorem test_decode_set_thresh : decode 0x20000000C0C00000#64 = .ok (.setThresh 0xC0C00000#32) := by decide
theorem test_decode_set_attack : decode 0x210000003A83126F#64 = .ok (.setAttack f0p001) := by decide
theorem test_decode_set_release : decode 0x220000003DCCCCCD#64 = .ok (.setRelease f0p1) := by decide
theorem test_decode_set_makeup : decode 0x2300000000000000#64 = .ok (.setMakeup f0) := by decide
theorem test_decode_set_rate : decode 0x300000000000BB80#64 = .ok (.setRate 48000#32) := by decide
theorem test_decode_clr_err : decode 0x3F00000000000000#64 = .ok .clrErr := by decide
theorem test_decode_sample : decode 0x4000000000000000#64 = .ok .sample := by decide
theorem test_decode_bit47 : decode 0x0100C57F00000000#64 = .error (.reservedField .noteOn) := by decide
theorem test_decode_bit52 : decode 0x0110457F00000000#64 = .error (.reservedField .noteOn) := by decide
theorem test_decode_nop_bit0 : decode 0x0000000000000001#64 = .error (.reservedField .nop) := by decide
theorem test_decode_rate_bit32 : decode 0x3000000100000000#64 = .error (.reservedField .setRate) := by
  decide
theorem test_decode_opc_ff : decode 0xFF00000000000000#64 = .error (.unassignedOpcode 0xFF#8) := by decide
theorem test_encode_note_on : encode (.noteOn 0#4 69#7 127#7) = 0x0100457F00000000#64 := by decide
theorem test_encode_set_rate : encode (.setRate 44100#32) = 0x300000000000AC44#64 := by decide
theorem test_bytes_little_endian :
    decodeBytes [0x44#8, 0xAC#8, 0#8, 0#8, 0#8, 0#8, 0#8, 0x30#8, 0x99#8] =
      .ok (.setRate 44100#32, [0x99#8]) := by decide
/-- R85: STATUS 0x0000010B, byte 0 first. -/
theorem test_port_bytes :
    portBytes 0x0000010B#32 = [0x0B#8, 0x01#8, 0#8, 0#8] ∧
      portWord [0x47#8, 0x07#8, 0x65#8, 0x39#8] = some 0x39650747#32 ∧ portWord [0#8, 0#8, 0#8] = none := by decide
theorem test_partial_word : decodeBytes [0#8, 0#8, 0#8, 0#8, 0#8, 0#8, 0#8] = .error .partialWord := by decide
theorem test_table_word : decodeTableWord 64 0x0100457F00000000 = some (.noteOn 0#4 69#7 127#7) := by decide

/-! ### WellFormed: one ill-formed term for each check, refused -/

theorem test_refuses_format : (Source.z .noteOn).toInstr = none := by decide
theorem test_refuses_note_format : (Source.n .setWet 0 0 0).toInstr = none := by decide
theorem test_refuses_channel : (Source.n .noteOn 16 69 127).toInstr = none := by decide
theorem test_refuses_note : (Source.n .noteOn 0 128 127).toInstr = none := by decide
theorem test_refuses_velocity : (Source.n .noteOff 0 69 128).toInstr = none := by decide
theorem test_refuses_f32_format : (Source.f .setRate 0).toInstr = none := by decide
theorem test_refuses_f32_bits : (Source.f .setWet (2 ^ 32)).toInstr = none := by decide
theorem test_refuses_rate_format : (Source.u .sample 0).toInstr = none := by decide
theorem test_refuses_rate : (Source.u .setRate (2 ^ 32)).toInstr = none := by decide
theorem test_well_formed : (Source.n .noteOn 15 127 127).toInstr = some (.noteOn 15#4 127#7 127#7) := by decide

/-! ### Assembler lines (R118, R119) -/

theorem test_assemble_note : assemble "note_on 0, A4, 127 ; a comment".toList = .ok [0x0100457F00000000#64] := by
  decide +kernel
theorem test_assemble_f32 : assemble "SET_DRY 1.0".toList = .ok [0x130000003F800000#64] := by decide +kernel
theorem test_assemble_negative : assemble "SET_THRESH -6.0".toList = .ok [0x20000000C0C00000#64] := by
  decide +kernel
/-- R119: a CALLBACK of one command and two frames. -/
theorem test_assemble_callback :
    assembleLines .outside ["CALLBACK 44100, 2".toList, [openBrace], "NOTE_ON 0, 69, 127".toList, [closeBrace]] =
      .ok [.setRate 44100#32, .noteOn 0#4 69#7 127#7, .sample, .sample] := by decide +kernel
/-- The choices of log 14: a note letter in either case, and no CALLBACK inside a CALLBACK. -/
theorem test_assembler_choices :
    assemble "NOTE_ON 0, a4, 127".toList = .ok [0x0100457F00000000#64] ∧
      assembleLines (.inside 44100#32 1 []) ["CALLBACK 44100, 1".toList] = .error .unknownMnemonic := by
  decide +kernel
theorem test_assemble_frames :
    assemble "FRAMES 2".toList = .ok [0x4000000000000000#64, 0x4000000000000000#64] := by decide +kernel

/-! ### Literals and arithmetic (R14 to R20) -/

/-- The literals of R19 are the binary32 values nearest to their decimals. -/
theorem test_literals :
    [decimal 1 10000, decimal 1 1000, decimal 1 100, decimal 1 10, decimal 15 100, decimal 2 10, decimal 3 10,
      decimal 4 10, decimal 5 10, decimal 6 10, decimal 8 10, decimal 84 100, decimal 17 10, decimal 25 10,
      decimal 297 10, decimal 371 10, decimal 411 10, decimal 437 10, decimal 440 1, decimal 127 1] =
    [f0p0001, f0p001, f0p01, f0p1, f0p15, f0p2, f0p3, f0p4, f0p5, f0p6, f0p8, f0p84, f1p7, f2p5,
      f29p7, f37p1, f41p1, f43p7, f440, f127] := by decide +kernel

/-- R230: 0.6 + 0.4 of the literals is exactly 1.0. -/
theorem test_add_rounds : fadd f0p6 f0p4 = f1 := by decide +kernel
/-- R16. -/
theorem test_clamp_keeps_negative_zero : fclamp 0x80000000#32 f0 f1 = 0x80000000#32 := by decide
/-- R231: the infinities clamp to the ends. -/
theorem test_clamp_infinities : fclamp fInf f0 f1 = f1 ∧ fclamp (fneg fInf) f0 f1 = f0 := by decide
/-- R175 and C3: sqrt(1 + 2^-23) is 1.0, and sqrt(1 + 2^-22) is 1 + 2^-23. -/
theorem test_sqrt : fsqrt 0x3F800001#32 = f1 ∧ fsqrt 0x3F800002#32 = 0x3F800001#32 := by decide +kernel
/-- V1: 440 / 44100, and V6: the phase 1.5679820 loses its integer part. -/
theorem test_div_and_frac :
    fdiv f440 (u32tof32 44100) = 0x3C2377EE#32 ∧ frac 0x3FC8B3A2#32 = 0x3F116744#32 := by decide +kernel
/-- R81, two rows. -/
theorem test_delay_lengths :
    ((combMs.toList ++ apMs.toList).map fun ms => delayLen ms (u32tof32 44100)) = [1310, 1636, 1813, 1927, 221, 75] ∧
    ((combMs.toList ++ apMs.toList).map fun ms => delayLen ms (u32tof32 192000)) =
      [5702, 7123, 7891, 8390, 960, 326] := by decide +kernel

/-! ### Units (the examples of the rules) -/

/-- An envelope at rest with exact rates: the rows E1 to E11 vary it. -/
def env0 : Envelope :=
  { state := .attack, level := f0, sustainLevel := f0p5, velocityLevel := f1, attackRate := some 0x3E800000#32,
    decayRate := some 0x3E000000#32, releaseRate := some 0x3E800000#32, sustainDecayRate := 0x3D800000#32 }

/-- R137 example (E1, last call). -/
theorem test_env_attack :
    envProcess { env0 with level := 0x3F400000#32 } = ({ env0 with level := f1, state := .decay }, f1) := by
  decide +kernel
/-- R138 example (E2, last call). -/
theorem test_env_decay :
    (envProcess { env0 with state := .decay, level := 0x3F200000#32 }).1 =
      { env0 with level := f0p5, state := .sustain } := by decide +kernel
/-- E9: no clamp at 0. -/
theorem test_env_sustain :
    (envProcess { env0 with state := .sustain, level := decimal 5 100 }).1 =
      { env0 with level := 0xBC4CCCCC#32, state := .idle } := by decide +kernel
/-- E4 (the first step, fast factor) and E11 (the factor is 1.0 at exactly 0.1). -/
theorem test_env_release :
    (envProcess { env0 with state := .release, level := f0p5 }).1 =
      { env0 with state := .release, level := 0x3E400000#32 } ∧
    (envProcess { env0 with state := .release, level := f0p1, releaseRate := some f0p5 }).1.level =
      0x3D4CCCCD#32 := by decide +kernel
/-- E7: a step below half a unit in the last place stalls. -/
theorem test_env_stall :
    (envProcess { env0 with level := f0p5, attackRate := some 0x30800000#32 }).1.level = f0p5 := by
  decide +kernel
/-- R224 example. -/
theorem test_comb :
    combProcess { len := 3, idx := 0, feedback := f0p84, damp := f0p2, store := f0, buf := [(0, f0p5)] } f1 =
      ({ len := 3, idx := 1, feedback := f0p84, damp := f0p2, store := f0p4, buf := [(0, 0x3FAB020C#32)] },
        f0p5) := by decide +kernel
/-- R225 example. -/
theorem test_allpass :
    allpassProcess { len := 2, idx := 1, feedback := f0p5, buf := [(1, 0x3E800000#32)] } f1 =
      ({ len := 2, idx := 0, feedback := f0p5, buf := [(1, 0x3F900000#32)] }, 0xBE800000#32) := by
  decide +kernel

/-- The limiter of L6. -/
def lim0 : LimiterRegs :=
  { LimiterRegs.unbuilt with
    threshLin := 0x3F642905#32, attackCoef := 0x3F7A42A5#32, releaseCoef := 0x3F7FF124#32, env := f1 }

/-- R266 example (L6). -/
theorem test_limiter :
    (limiterAfter lim0 0xBF000000#32).env = 0x3F7FF892#32 ∧ (limiterAfter lim0 0xBF000000#32).gr = 0x3F642FA4#32 ∧
      limiterOut lim0 0xBF000000#32 = 0xBEE42FA4#32 := by decide +kernel
/-- L12: the first sample of a step is passed whole. -/
theorem test_limiter_first :
    (limiterAfter { lim0 with env := f0 } f1).env = 0x3CB7AB60#32 ∧ limiterOut { lim0 with env := f0 } f1 = f1 := by
  decide +kernel

/-! ### Small states -/

/-- The reference configuration over functions that answer +0.0. -/
def ref : Config := reference default

/-- A block with units at 44100 Hz, one cell in each line. -/
def bench : State := { State.reset with cfg := true, sr := 44100#32, srF := 0x472C4400#32 }

/-- A voice in the given state at the given level, its key note 60. -/
def voiceAt (st : EnvState) (level : F32) : Voice :=
  { Voice.unbuilt with
    active := true, key := some { freq := 0x4382D012#32, note := 60#7 }, phaseDelta := 0x3BC265DB#32
    env := { env0 with state := st, level := level } }

/-- The block with the given voices. -/
def withVoices (vs : Vector Voice 8) : State := { bench with voices := vs }

/-- The block with one word on the port. -/
def fed (s : State) (w : Word) : State := { s with stream := [w] }

/-- S1 of 95_test_vectors.md. -/
def poolS1 : Vector Voice 8 :=
  #v[voiceAt .attack f0p2, voiceAt .decay 0x3F666666#32, voiceAt .sustain f0p3, voiceAt .release f0p5,
     voiceAt .sustain f0p1, voiceAt .release f0p5, voiceAt .decay 0x3D4CCCCD#32, voiceAt .attack f0p01]

/-- S2 of 95_test_vectors.md. -/
def poolS2 : Vector Voice 8 :=
  #v[voiceAt .attack f0p2, voiceAt .decay 0x3F666666#32, voiceAt .sustain f0p3, voiceAt .attack f0p5,
     voiceAt .sustain f0p1, voiceAt .decay f0p5, voiceAt .decay 0x3D4CCCCD#32, voiceAt .sustain f0p1]

/-- S3 of 95_test_vectors.md. -/
def poolS3 : Vector Voice 8 :=
  #v[voiceAt .attack f0p2, voiceAt .decay 0x3F666666#32, voiceAt .attack f0p3, voiceAt .attack 0x3D4CCCCD#32,
     voiceAt .decay f0p1, voiceAt .decay f0p5, voiceAt .decay 0x3D4CCCCD#32, voiceAt .attack f0p01]

theorem test_steal_release : steal poolS1 = 3 := by decide
theorem test_steal_sustain : steal poolS2 = 4 := by decide
theorem test_steal_any : steal poolS3 = 7 := by decide
theorem test_steal_first_of_equals : steal (Vector.replicate 8 (voiceAt .decay f0p4)) = 0 := by decide

/-- With V[0] to V[2] active the scan takes V[3]. -/
theorem test_first_free :
    allocate #v[voiceAt .attack f1, voiceAt .attack f1, voiceAt .attack f1, Voice.unbuilt, Voice.unbuilt,
      Voice.unbuilt, Voice.unbuilt, Voice.unbuilt] = 3 := by decide

/-- R203 example: both holders of note 60 are released and stay active. -/
theorem test_note_off :
    (noteOff 60#7 (withVoices poolS2)).voices[0].env.state = .release ∧
      (noteOff 60#7 (withVoices poolS2)).voices[0].active = true ∧
      (noteOff 61#7 (withVoices poolS2)).voices[0].env.state = .attack := by decide +kernel

/-- V3: the registers of a note-on of velocity 64. -/
theorem test_note_on_vnorm : (voiceNoteOn ref bench.srF 60#7 64#7 Voice.unbuilt).vnorm = 0x3F010204#32 := by
  decide +kernel

/-- R167 example: the voice is deactivated on the sample its envelope goes Idle, with output +0.0. -/
theorem test_voice_deactivated :
    (voiceProcess ref bench.srF 0 (voiceAt .sustain 0x37000000#32)).1.active = false ∧
      (voiceProcess ref bench.srF 0 (voiceAt .sustain 0x37000000#32)).2 = f0 := by decide +kernel

/-- V2: the accumulators after the first sample of note 69 at 44100 Hz. -/
theorem test_voice_accumulators :
    let v := voiceAdvance ref bench.srF 0 { voiceAt .attack f0 with phaseDelta := 0x3C2377EE#32 }
    v.phase = 0x3C2377EE#32 ∧ v.detunedPhase = 0x3C23A1C8#32 ∧ v.notePhase = 0x37BE37C6#32 ∧
      v.attackPhase = 0x3A949B93#32 := by decide +kernel

/-- CH2: CLR_ERR on STATUS 0x0000010B. -/
theorem test_clr_err :
    let s := { withVoices (State.reset.voices.set 0 (voiceAt .attack f0)) with errIllegal := true, errRange := true }
    readStatus s = 0x0000010B#32 ∧ readStatus (clearFlags s) = 0x00000101#32 := by decide

/-- P3, word 1: SAMPLE at power-on. -/
theorem test_sample_uncfg :
    step (fed State.reset 0x4000000000000000#64) = .next { State.reset with errUncfg := true } := rfl

/-- P3, word 2: an unassigned opcode. -/
theorem test_illegal_word :
    step (fed State.reset 0x4100000000000000#64) = .next { State.reset with errIllegal := true } := rfl

/-- P3, words 3 and 5, and the priority example of R314. -/
theorem test_errors :
    step (fed State.reset 0x3000000000000000#64) = .next { State.reset with errRange := true } ∧
      step (fed bench 0x120000007FC00000#64) = .next { bench with errNan := true } ∧
      step (fed State.reset 0x120000007FC00000#64) = .next { State.reset with errUncfg := true } := ⟨rfl, rfl, rfl⟩

/-- RV3: the feedback after SET_ROOM 0.5, and of a clamped operand. -/
theorem test_set_room :
    (setRoom f0p5 bench).combs[3].feedback = 0x3F333334#32 ∧ (setRoom fInf bench).combs[0].feedback = f1 := by
  decide +kernel

/-- R232: after SET_DAMP the feedback comes from room_size. -/
theorem test_set_damp :
    (setDamp f2 { bench with rv := { bench.rv with roomSize := decimal 7 10 } }).combs[1].feedback = 0x3F51EB86#32 ∧
      (setDamp f2 bench).combs[1].damp = f1 := by decide +kernel

/-- R234 and R233: SET_DRY -3.0, SET_WET +∞; R235: SET_WIDTH 0.25. -/
theorem test_mix_setters :
    execSetDry 0xC0400000#32 bench = .next { bench with rv := { bench.rv with dry := f0 } } ∧
      execSetWet fInf bench = .next { bench with rv := { bench.rv with wet := f1 } } ∧
      execSetWidth 0x3E800000#32 bench = .next { bench with rv := { bench.rv with width := 0x3E800000#32 } } :=
  ⟨rfl, rfl, rfl⟩

/-- L2, L5: the clamped decibels; L3, L4 under REF: the clamped times. -/
theorem test_limiter_setters :
    (setThresh ref 0xC2C80000#32 bench).lim.threshDb = 0xC2700000#32 ∧ (setMakeup ref f50 bench).lim.makeupDb = f30 ∧
      (setAttack ref f0 bench).lim.attackTime = f0p0001 ∧ (setRelease ref f5 bench).lim.releaseTime = f2 := by
  decide +kernel

/-- P1: a construction at 44100 Hz and then a frame: OUT is +0.0, STATUS 1. -/
theorem test_silence :
    (sampleFrame ref (construct ref 44100#32 State.reset)).out = f0 ∧
      readStatus (sampleFrame ref (construct ref 44100#32 State.reset)) = 1#32 := by decide +kernel

/-- P5, word 104: the lengths at 48000 Hz. -/
theorem test_set_rate :
    let s := construct ref 48000#32 bench
    s.sr = 48000#32 ∧ s.combs[0].len = 1426 ∧ s.combs[3].len = 2098 ∧ s.aps[1].len = 82 ∧ s.rv.wet = f0p3 := by
  decide +kernel

/-- REF lies within the limits of R10 and R11. -/
theorem test_reference_legal : legal ref = true := by decide +kernel

/-! ### The hypotheses of the obligations can be met -/

/-- A block built at 44100 Hz under the machine's own configuration. -/
def built : State := construct actual 44100#32 State.reset

theorem test_meets_PowerOnRegistersAndUnobservableUnits :
    (SameButUnits (fed State.reset 0x300000000000AC44#64)
        { fed State.reset 0x300000000000AC44#64 with rv := { bench.rv with wet := f1 } } ∧
      ∃ t, step (fed State.reset 0x300000000000AC44#64) = .next t) ∧
    ∃ t, step (fed State.reset 0x4000000000000000#64) = .next t :=
  ⟨⟨by unfold SameButUnits; decide, _, rfl⟩, _, rfl⟩

theorem test_meets_EncodeAfterDecode : decode (encode (.setRate 8000#32)) = .ok (.setRate 8000#32) := by decide

theorem test_meets_BytesDecodeAsTheirWord :
    (∃ i, decode 0x0200450000000000#64 = .ok i) ∧ ∃ e, decode 0x4100000000000000#64 = .error e :=
  ⟨⟨_, rfl⟩, _, rfl⟩

theorem test_meets_StepRunsDecodedCommand :
    (fed bench 0x010F7F7F00000000#64).stream = 0x010F7F7F00000000#64 :: [] ∧
      decode 0x010F7F7F00000000#64 = .ok (.noteOn 15#4 127#7 127#7) ∧ bench.stream = [] := by decide

theorem test_meets_IllegalWordsOnlyRaise :
    (∀ op : Op, opcField 0x4100000000000000#64 ≠ op.code) ∧
      ∀ op : Op, opcField (op.pattern ||| 0x0080000000000000#64) = op.code ∧
        (op.pattern ||| 0x0080000000000000#64) &&& op.format.mask ≠ op.pattern := by
  constructor <;> intro op <;> cases op <;> decide

theorem test_meets_CommandsWithoutUnitsOnlyRaise :
    (Instr.sample.op.needsCfg = true ∧ State.reset.cfg = false) ∧ Instr.nop.op.needsCfg = false ∧
      exec .nop { State.reset with errUncfg := true } = .next { State.reset with errUncfg := true } :=
  ⟨by decide, rfl, rfl⟩

/-- The NaNs of R114 at the ends of their range, an infinity, and −0.0. -/
theorem test_meets_NanOperandsOnlyRaise :
    setterOperand (.setAttack 0x7F800001#32) = some 0x7F800001#32 ∧ bench.cfg = true ∧
      isNaN 0x7F800001#32 = true ∧ isNaN 0xFFFFFFFF#32 = true ∧ isNaN fInf = false ∧
      isNaN 0x80000000#32 = false := by decide

theorem test_meets_RateOutsideRangeOnlyRaises :
    (0#32 : BitVec 32).toNat < 8000 ∧ (7999#32 : BitVec 32).toNat < 8000 ∧ 192000 < (192001#32 : BitVec 32).toNat := by
  decide

/-- One word for each clause: a bad SET_WET of a NaN, a SET_WET of a NaN without units and with units, and a rate. -/
theorem test_meets_ErrorPriority :
    (∃ e, decode 0x120001007FC00000#64 = .error e) ∧
    (decode 0x120000007FC00000#64 = .ok (.setWet 0x7FC00000#32) ∧
      (Instr.setWet 0x7FC00000#32).op.needsCfg = true ∧ State.reset.cfg = false) ∧
    (bench.cfg = true ∧ setterOperand (.setWet 0x7FC00000#32) = some 0x7FC00000#32 ∧
      isNaN 0x7FC00000#32 = true) ∧
    decode 0x3000000000030D40#64 = .ok (.setRate 200000#32) :=
  ⟨⟨_, rfl⟩, by decide, by decide, by decide⟩

theorem test_meets_RaisedErrorChangesNothingElse :
    step (fed State.reset 0x4000000000000000#64) = .next { State.reset with errUncfg := true } ∧
      getFlag .uncfg (fed State.reset 0x4000000000000000#64) = false ∧
      getFlag .uncfg { State.reset with errUncfg := true } = true := ⟨rfl, rfl, rfl⟩

theorem test_meets_ErrorFlagsAreSticky :
    step (fed { bench with errNan := true } 0x3F00000000000000#64) = .next bench ∧
      getFlag .nan (fed { bench with errNan := true } 0x3F00000000000000#64) = true := ⟨rfl, rfl⟩

/-- A pool whose first free voice is the first, one whose is the last, and a full one. -/
theorem test_meets_NoteOnWritesOneVoice :
    (bench.cfg = true ∧ bench.voices[(0 : Fin 8)].active = false ∧
      ∀ k : Fin 8, k < 0 → bench.voices[k].active = true) ∧
    (let s := withVoices ((Vector.replicate 8 (voiceAt .attack f1)).set 7 Voice.unbuilt)
     s.voices[(7 : Fin 8)].active = false ∧ ∀ k : Fin 8, k < 7 → s.voices[k].active = true) ∧
    ((∀ k : Fin 8, (withVoices poolS1).voices[k].active = true) ∧ (3 : Fin 8) = steal (withVoices poolS1).voices) ∧
    State.reset.cfg = false := by decide

theorem test_meets_StealTakesQuietestOfClass :
    (∀ i : Fin 8, isNaN poolS1[i].env.level = false) ∧ (∃ i : Fin 8, poolS1[i].env.state = .release) ∧
    (∀ i : Fin 8, isNaN poolS2[i].env.level = false) ∧ (∀ i : Fin 8, poolS2[i].env.state ≠ .release) ∧
    (∃ i : Fin 8, poolS2[i].env.state = .sustain) ∧
    (∀ i : Fin 8, isNaN poolS3[i].env.level = false) ∧ (∀ i : Fin 8, poolS3[i].env.state ≠ .release) ∧
    (∀ i : Fin 8, poolS3[i].env.state ≠ .sustain) := by decide

/-- A voice whose key is the note, and one whose is not; a block with units, and one without. -/
theorem test_meets_NoteOffReleasesEveryMatch :
    ((withVoices poolS1).cfg = true ∧
      (withVoices poolS1).voices[(0 : Fin 8)].key = some { freq := 0x4382D012#32, note := 60#7 }) ∧
    bench.voices[(0 : Fin 8)].key = none ∧ State.reset.cfg = false := by decide

/-- One envelope for each arm of R136 to R140. -/
theorem test_meets_EnvelopeArms :
    ({ env0 with state := .idle } : Envelope).state = .idle ∧ env0.state = .attack ∧
      env0.attackRate = some 0x3E800000#32 ∧ ({ env0 with attackRate := none } : Envelope).attackRate = none ∧
      ({ env0 with state := .decay } : Envelope).decayRate = some 0x3E000000#32 ∧
      ({ env0 with state := .decay, decayRate := none } : Envelope).decayRate = none ∧
      ({ env0 with state := .sustain } : Envelope).state = .sustain ∧
      ({ env0 with state := .release } : Envelope).releaseRate = some 0x3E800000#32 ∧
      ({ env0 with state := .release, releaseRate := none } : Envelope).releaseRate = none := by decide

/-- A voice at rest, one whose envelope goes Idle on this sample, one that sounds. -/
theorem test_meets_VoiceGating :
    (Voice.unbuilt.active = false ∧ Voice.unbuilt.env.state = .idle) ∧
    ((voiceAt .release f0).active = true ∧ (envProcess (voiceAt .release f0).env).1.state = .idle) ∧
    ((voiceAt .attack f0).active = true ∧ (envProcess (voiceAt .attack f0).env).1.state ≠ .idle) := by
  decide +kernel

/-- The gate of R172 just above 0.01 and at it. -/
theorem test_meets_OscillatorBank :
    (voiceAt .attack f0).key = some { freq := 0x4382D012#32, note := 60#7 } ∧
      fgt 0x3C23D70B#32 f0p01 = true ∧ fgt f0p01 f0p01 = false := by decide

/-- The zeros and the greatest finite value. -/
theorem test_meets_FracIsExactAndBelowOne :
    (isFinite f0 = true ∧ fle f0 f0 = true) ∧ (isFinite (fneg f0) = true ∧ fle f0 (fneg f0) = true) ∧
      isFinite 0x7F7FFFFF#32 = true ∧ fle f0 0x7F7FFFFF#32 = true := by decide

theorem test_meets_FrameKeepsPhasesBelowOne :
    (∀ i : Fin 8, unitPhase (withVoices poolS1).voices[i].phase = true ∧
      unitPhase (withVoices poolS1).voices[i].detunedPhase = true ∧
      nonNegFinite (withVoices poolS1).voices[i].phaseDelta = true ∧
      nonNegFinite (fmul (withVoices poolS1).voices[i].phaseDelta ref.detune[i]) = true) ∧
    (fle f0 (ref.noteInc bench.srF) = true ∧
      ∀ i : Fin 8, fle f0 (withVoices poolS1).voices[i].notePhase = true) := by decide +kernel

theorem test_meets_FrameKeepsPhasesBelowOne_step :
    AccumulatorsOk (fed (withVoices poolS1) 0x0100486400000000#64) ∧
      decode 0x0100486400000000#64 ≠ .ok .sample ∧
      ∃ t, step (fed (withVoices poolS1) 0x0100486400000000#64) = .next t :=
  ⟨by unfold AccumulatorsOk; decide, by decide, _, rfl⟩

/-- The least subnormal and infinity are both above 0; harmonics 2 and 8 are the ends. -/
theorem test_meets_InharmonicMultiplierBounds :
    flt f0 0x00000001#32 = true ∧ flt f0 fInf = true ∧ fle 0x34400000#32 (fmul 0x34400000#32 f1) = true := by
  decide +kernel

theorem test_meets_KeyFrequenciesOfA4AndA5 :
    ∃ c : Config, c.pow f2 f0 = f1 ∧ c.pow f2 f1 = f2 :=
  ⟨{ ref with pow := fun _ b => if b = f0 then f1 else f2 }, by decide, by decide⟩

/-- The hypothesis of ReferenceExactValues. -/
theorem test_meets_ReferenceExactValues : ∃ c : Config, IsReference c := exists_isReference

/-- Units of which each line lists a cell. -/
def primed : State :=
  { bench with
    combs := Vector.replicate 4 { Comb.unbuilt with len := 3, idx := 2, buf := [(0, f0p5), (2, f1)] }
    aps := Vector.replicate 2 { Allpass.unbuilt with len := 2, idx := 1, buf := [(1, f0p2)] } }

theorem test_meets_SampleAdvancesCombs :
    (∃ t, exec .sample primed = .next t) ∧ primed.cfg = true ∧
      ∀ k : Fin 4, memWf primed.combs[k].buf = true := ⟨⟨_, rfl⟩, by decide, by decide⟩

theorem test_meets_SampleAdvancesAllpasses :
    (∃ t, exec .sample primed = .next t) ∧ primed.cfg = true ∧
      ∀ a : Fin 2, memWf primed.aps[a].buf = true := ⟨⟨_, rfl⟩, by decide, by decide⟩

theorem test_meets_DryOnlyReverbIsTransparent :
    let rv : ReverbRegs := { bench.rv with wet := f0, dry := f1 }
    rv.wet = f0 ∧ rv.dry = f1 ∧ isFinite 0xBEC00000#32 = true ∧ fmag 0xBEC00000#32 ≠ 0 ∧
      isFinite (secondAllpassOut primed.combs primed.aps 0xBEC00000#32) = true := by decide +kernel

/-- Units and none; a number and a NaN: the hypotheses of each setter's statement. -/
theorem test_meets_RoomAndDampRecomputeCombs :
    bench.cfg = true ∧ isNaN f0p5 = false ∧ isNaN 0x7FC00000#32 = true ∧ State.reset.cfg = false := by decide
theorem test_meets_MixSettersWriteOneRegister :
    bench.cfg = true ∧ isNaN fInf = false ∧ isNaN 0xFF800001#32 = true ∧ State.reset.cfg = false := by decide
theorem test_meets_DecibelSettersWritePair :
    bench.cfg = true ∧ isNaN fm60 = false ∧ isNaN 0x7FC00000#32 = true ∧ State.reset.cfg = false := by decide
theorem test_meets_TimeSettersWritePair :
    bench.cfg = true ∧ isNaN f0 = false ∧ isNaN 0x7FC00000#32 = true ∧ State.reset.cfg = false := by decide

theorem test_meets_WidthIsInert :
    EqButWidth (fed primed 0x4000000000000000#64)
      { fed primed 0x4000000000000000#64 with rv := { primed.rv with width := f0p5 } } ∧
    ∃ t, step (fed primed 0x4000000000000000#64) = .next t := ⟨⟨f0p5, rfl⟩, _, rfl⟩

theorem test_meets_SampleRunsLimiter : (∃ t, exec .sample primed = .next t) ∧ primed.cfg = true :=
  ⟨⟨_, rfl⟩, rfl⟩

theorem test_meets_GainNeverAboveOne :
    fle f0 lim0.threshLin = true ∧ isNaN (followEnv lim0 0xBF000000#32) = false := by decide +kernel

theorem test_meets_BelowThresholdOnlyMakeup :
    isNaN f0p5 = false ∧ fgt (followEnv { lim0 with env := f0 } f0p5) lim0.threshLin = false := by decide +kernel

/-- The ends of the admitted rates, first and after a construction at another rate; the current rate. -/
theorem test_meets_SetRateConstructs :
    8000 ≤ (8000#32 : BitVec 32).toNat ∧ (192000#32 : BitVec 32).toNat ≤ 192000 ∧ State.reset.cfg = false ∧
      8000#32 ≠ bench.sr ∧ bench.cfg = true ∧ 8000 ≤ bench.sr.toNat ∧ bench.sr.toNat ≤ 192000 ∧
      192000 < (192001#32 : BitVec 32).toNat := by decide

theorem test_meets_ConstructionForgetsUnits :
    admittedRate 48000#32 = true ∧ State.reset.cfg = false ∧ 48000#32 ≠ primed.sr ∧
      State.reset.errIllegal = primed.errIllegal ∧ State.reset.errUncfg = primed.errUncfg ∧
      State.reset.errRange = primed.errRange ∧ State.reset.errNan = primed.errNan ∧
      State.reset.stream = primed.stream := by decide

theorem test_meets_DelayLengthBounds : admittedRate 8000#32 = true ∧ admittedRate 192000#32 = true := by decide
theorem test_meets_RateConversionIsExact : admittedRate 191999#32 = true := by decide

theorem test_meets_SampleProducesFrame :
    primed.cfg = true ∧ (∀ k : Fin 4, primed.combs[k].idx < primed.combs[k].len) ∧
      (∀ a : Fin 2, primed.aps[a].idx < primed.aps[a].len) ∧ State.reset.cfg = false := by decide

theorem test_meets_SampleFaultsOutsideLine :
    (let s := { primed with combs := primed.combs.set 3 { Comb.unbuilt with len := 3, idx := 3 } }
     s.cfg = true ∧ ∃ k : Fin 4, s.combs[k].len ≤ s.combs[k].idx) ∧
    (let s := { primed with aps := primed.aps.set 0 { Allpass.unbuilt with len := 2, idx := 2 } }
     s.cfg = true ∧ ∃ a : Fin 2, s.aps[a].len ≤ s.aps[a].idx) := by decide

theorem test_meets_SilenceStaysSilent : Silent bench := by unfold Silent; decide

theorem test_meets_StepKeepsDelayLines :
    LinesOk (fed primed 0x4000000000000000#64) ∧ ∃ t, step (fed primed 0x4000000000000000#64) = .next t :=
  ⟨by unfold LinesOk; decide, _, rfl⟩

theorem test_meets_StepKeepsVoiceStates :
    VoicesOk (fed (withVoices poolS1) 0x02003C0000000000#64) ∧
      ∃ t, step (fed (withVoices poolS1) 0x02003C0000000000#64) = .next t :=
  ⟨by unfold VoicesOk; decide, _, rfl⟩

theorem test_meets_StepKeepsPowerOnState :
    PowerOnOk (fed State.reset 0x4000000000000000#64) ∧
      ∃ t, step (fed State.reset 0x4000000000000000#64) = .next t :=
  ⟨by unfold PowerOnOk; decide, _, rfl⟩

theorem test_meets_StepKeepsParametersLegal :
    ParamsLegal actual (fed built 0x120000003F000000#64) ∧ (fed built 0x120000003F000000#64).cfg = true ∧
      ∃ t, step (fed built 0x120000003F000000#64) = .next t := by
  have h := actual_legal
  simp only [legal, Bool.and_eq_true] at h
  refine ⟨fun _ => ?_, rfl, _, rfl⟩
  simp only [fed, built, construct, builtReverb, builtLimiter]
  tauto

theorem test_meets_StepKeepsComputedRegisters :
    let s := fed built 0x120000003F000000#64
    RateOk s ∧ LimiterCached actual s ∧ CombsCached s ∧ VoicesCached actual s ∧ s.cfg = true ∧ ∃ t, step s = .next t := by
  refine ⟨fun _ => ⟨by decide, rfl, ?_, ?_⟩, fun _ => ⟨rfl, rfl, rfl, rfl⟩, fun _ => .inl ?_, fun _ i => ?_, rfl, _, rfl⟩
  · intro k; simp [fed, built, construct, builtComb]
  · intro a; simp [fed, built, construct, builtAllpass]
  · intro k; simp [fed, built, construct, builtComb]
  · simp [fed, built, construct, builtVoice, builtEnvelope]

/-- A tracker at the greatest value below 1.0, at a rate of each end. -/
theorem test_meets_StepKeepsAttackTrackers :
    let v : Voice := { voiceAt .decay f1 with attackPhase := 0x3F7FFFFF#32 }
    (∀ u : BitVec 32, u = 8000#32 ∨ u = 192000#32 →
      TrackersOk (fed { withVoices (poolS1.set 0 v) with sr := u, srF := rateF32 u } 0x4000000000000000#64) ∧
      ∃ t, step (fed { withVoices (poolS1.set 0 v) with sr := u, srF := rateF32 u } 0x4000000000000000#64) =
        .next t) := by
  rintro v u (rfl | rfl)
  · exact ⟨fun _ => ⟨by decide, rfl, by decide⟩, _, rfl⟩
  · exact ⟨fun _ => ⟨by decide, rfl, by decide⟩, _, rfl⟩

theorem test_meets_NoWordStopsTheBlock : LinesOk primed := by unfold LinesOk; decide

theorem test_meets_OnlySetRateWritesRate :
    ∃ t, step (fed State.reset 0x300000000000AC44#64) = .next t ∧
      t.cfg ≠ (fed State.reset 0x300000000000AC44#64).cfg := ⟨_, rfl, by decide⟩

theorem test_meets_OnlySampleAndSetRateWriteOutAndLines :
    ∃ t, step (fed primed 0x120000003F000000#64) = .next t := ⟨_, rfl⟩

/-- Rates at both ends; the power-on block, and one with a flag already set. -/
theorem test_meets_PlayWithoutRateIsZeros :
    (0#32 : BitVec 32).toNat < 8000 ∧ (7999#32 : BitVec 32).toNat < 8000 ∧ 192000 < (192001#32 : BitVec 32).toNat ∧
      (State.reset.cfg = false ∧ State.reset.out = f0 ∧ State.reset.stream = []) ∧
      (let s := { State.reset with errUncfg := true }
       s.cfg = false ∧ s.out = f0 ∧ s.stream = []) := by decide

end Sys2Proof.Tests
end

section
/-! Frac is exact (spec/00_scope.md R18). The values that binary32 represents are `f * 2^j` units with `f` below 2^24;
the whole part and the fractional part of such a value are of that form again, so neither floor nor the subtraction
rounds. -/

namespace Sys2Proof.Machine

/-! ### Classes and signs -/

theorem isNaN_of_isFinite {x : F32} (h : isFinite x = true) : isNaN x = false := by
  simp [isFinite, isNaN] at *; omega

theorem isInf_of_isFinite {x : F32} (h : isFinite x = true) : isInf x = false := by
  simp [isFinite, isInf] at *; omega

@[simp] theorem fmag_fneg (x : F32) : fmag (fneg x) = fmag x := by
  rw [fmag, fneg, BitVec.toNat_xor, Nat.xor_mod_two_pow]
  simp [fmag]

theorem fsign_eq_msb (x : F32) : fsign x = x.msb := by
  rw [fsign, BitVec.msb_eq_decide]

@[simp] theorem fsign_fneg (x : F32) : fsign (fneg x) = !fsign x := by
  have htop : (0x80000000#32).msb = true := by decide
  rw [fsign_eq_msb, fsign_eq_msb, fneg, BitVec.msb_xor, htop, Bool.xor_true]

@[simp] theorem isFinite_fneg (x : F32) : isFinite (fneg x) = isFinite x := by simp [isFinite]

@[simp] theorem fint_fneg (x : F32) : fint (fneg x) = -fint x := by
  unfold fint
  rw [fsign_fneg, funits_congr (fmag_fneg x)]
  cases fsign x <;> simp

@[simp] theorem fint_f0 : fint f0 = 0 := by decide

@[simp] theorem fint_f1 : fint f1 = (unitsPerOne : Int) := by decide

/-- On finite values `<=` compares the values (R14). -/
theorem fle_iff_fint {a b : F32} (ha : isFinite a = true) (hb : isFinite b = true) :
    fle a b = true ↔ fint a ≤ fint b := by
  simp [fle, isNaN_of_isFinite ha, isNaN_of_isFinite hb, forder_le_iff ha hb]

/-- On finite values `<` compares the values (R14). -/
theorem flt_iff_fint {a b : F32} (ha : isFinite a = true) (hb : isFinite b = true) :
    flt a b = true ↔ fint a < fint b := by
  simp [flt, isNaN_of_isFinite ha, isNaN_of_isFinite hb, forder_lt_iff ha hb]

/-! ### Representable numbers of units -/

/-- Numbers of units that are a 24-bit significand times a power of two within the exponent range (R13). -/
def Representable (n : Nat) : Prop := ∃ f j, f < 2 ^ 24 ∧ j ≤ 253 ∧ n = f * 2 ^ j

theorem representable_funits {x : F32} (h : isFinite x = true) : Representable (funits x) := by
  have hlt : fmag x < 0x7F800000 := by simpa [isFinite] using h
  unfold funits
  split_ifs with he
  · exact ⟨fmag x % 2 ^ 23, 0, by omega, by omega, by simp⟩
  · exact ⟨2 ^ 23 + fmag x % 2 ^ 23, fmag x / 2 ^ 23 - 1, by omega, by omega, rfl⟩

/-- A significand with its leading bit at bit 23, or at the least exponent, is the pattern's own. -/
theorem funits_fpack {f j : Nat} (hf : f < 2 ^ 24) (hj : j ≤ 253) (h : 2 ^ 23 ≤ f ∨ j = 0) :
    isFinite (fpack false (j * 2 ^ 23 + f)) = true ∧
      funits (fpack false (j * 2 ^ 23 + f)) = f * 2 ^ j := by
  have hm : fmag (fpack false (j * 2 ^ 23 + f)) = j * 2 ^ 23 + f := fmag_fpack false (by omega)
  refine ⟨by rw [isFinite, hm, decide_eq_true_eq]; omega, ?_⟩
  unfold funits
  rw [hm]
  split_ifs with he
  · obtain rfl : j = 0 := by omega
    simp; omega
  · obtain ⟨hfrac, hexp⟩ :
        2 ^ 23 + (j * 2 ^ 23 + f) % 2 ^ 23 = f ∧ (j * 2 ^ 23 + f) / 2 ^ 23 - 1 = j := by omega
    rw [hfrac, hexp]

/-- Every representable number of units is some finite pattern's: a short significand is shifted left until it is
normal or the exponent is the least. -/
theorem exists_funits_eq {n : Nat} (h : Representable n) : ∃ x, isFinite x = true ∧ funits x = n := by
  obtain ⟨f, j, hf, hj, rfl⟩ := h
  induction j generalizing f with
  | zero => exact ⟨_, funits_fpack hf hj (.inr rfl)⟩
  | succ j ih =>
    rcases Nat.lt_or_ge f (2 ^ 23) with hshort | hnormal
    · obtain ⟨x, hx, hu⟩ := ih (2 * f) (by omega) (by omega)
      exact ⟨x, hx, by rw [hu]; ring⟩
    · exact ⟨_, funits_fpack hf hj (.inl hnormal)⟩

/-- Rounding a representable number of units is exact (R14). -/
theorem fround_of_representable (neg : Bool) {n : Nat} (h : Representable n) :
    isFinite (fround neg n 1) = true ∧ fint (fround neg n 1) = if neg then -(n : Int) else n := by
  obtain ⟨x, hx, rfl⟩ := exists_funits_eq h
  have hm : fmag (fround neg (funits x) 1) = fmag x := by
    rw [fround, roundMag_funits hx, fmag_fpack neg (fmag_lt x)]
  have hs : fsign (fround neg (funits x) 1) = neg := fsign_fpack neg (roundMag_lt _ _)
  refine ⟨by simpa [isFinite, hm] using hx, ?_⟩
  rw [fint, hs, funits_congr hm]

/-- Below the place of 1.0 a last place of `2^j` units divides 1.0. -/
theorem unitsPerOne_eq_mul {j : Nat} (h : j < 149) : unitsPerOne = 2 ^ (149 - j) * 2 ^ j := by
  rw [← Nat.pow_add, Nat.sub_add_cancel h.le, unitsPerOne]

/-- From the place of 1.0 on, a number is whole. -/
theorem unitsPerOne_dvd (f : Nat) {j : Nat} (h : 149 ≤ j) : unitsPerOne ∣ f * 2 ^ j :=
  Dvd.dvd.mul_left (Nat.pow_dvd_pow 2 h) f

/-- The fractional part of a representable number: the significand's low bits at the same exponent. -/
theorem Representable.mod_unitsPerOne {n : Nat} (h : Representable n) : Representable (n % unitsPerOne) := by
  obtain ⟨f, j, hf, hj, rfl⟩ := h
  rcases Nat.lt_or_ge j 149 with hlow | hhigh
  · exact ⟨f % 2 ^ (149 - j), j, lt_of_le_of_lt (Nat.mod_le _ _) hf, hj,
      by rw [unitsPerOne_eq_mul hlow, Nat.mul_mod_mul_right]⟩
  · exact ⟨0, 0, by decide, by decide, by simp [Nat.mod_eq_zero_of_dvd (unitsPerOne_dvd f hhigh)]⟩

/-- The whole part of a representable number: the significand's high bits, shifted down to the place of 1.0. -/
theorem Representable.floor {n : Nat} (h : Representable n) :
    Representable (n / unitsPerOne * unitsPerOne) := by
  obtain ⟨f, j, hf, hj, rfl⟩ := h
  rcases Nat.lt_or_ge j 149 with hlow | hhigh
  · have hq : f * 2 ^ j / unitsPerOne = f / 2 ^ (149 - j) := by
      rw [unitsPerOne_eq_mul hlow, Nat.mul_div_mul_right _ _ (Nat.two_pow_pos j)]
    exact ⟨f / 2 ^ (149 - j), 149, lt_of_le_of_lt (Nat.div_le_self _ _) hf, by decide, by rw [hq, unitsPerOne]⟩
  · exact ⟨f, j, hf, hj, Nat.div_mul_cancel (unitsPerOne_dvd f hhigh)⟩

/-! ### Operations whose exact result is representable -/

/-- The difference of finite values whose exact difference is a representable number, not negative, is exact. -/
theorem fsub_of_representable {a b : F32} {n : Nat} (ha : isFinite a = true) (hb : isFinite b = true)
    (hn : Representable n) (h : fint a - fint b = n) :
    isFinite (fsub a b) = true ∧ fint (fsub a b) = n := by
  have hb' : isFinite (fneg b) = true := by simpa using hb
  have hsum : fint a + fint (fneg b) = n := by rw [fint_fneg]; omega
  have hadd : fsub a b = addFinite a (fneg b) := by
    simp [fsub, addAs, isNaN_of_isFinite, isInf_of_isFinite, ha, hb']
  rw [hadd, addFinite, hsum]
  rcases Nat.eq_zero_or_pos n with rfl | hpos
  · generalize (fsign a && fsign (fneg b)) = neg
    cases neg <;> exact ⟨by decide, by decide⟩
  · have hne : ¬ (n : Int) = 0 := by omega
    have hneg : ¬ (n : Int) < 0 := by omega
    rw [if_neg hne, decide_eq_false hneg, Int.natAbs_natCast]
    exact fround_of_representable false hn

/-- A finite value that is not negative, −0.0 included, is its units. -/
theorem fint_eq_funits {x : F32} (h : isFinite x = true) (h0 : fle f0 x = true) : fint x = funits x := by
  have hnonneg : 0 ≤ fint x := by simpa using (fle_iff_fint (by decide) h).1 h0
  unfold fint at *
  split_ifs at * <;> omega

/-- The floor of a finite value that is not negative is exact (R14). -/
theorem ffloor_of_nonneg {x : F32} (h : isFinite x = true) (h0 : fle f0 x = true) :
    isFinite (ffloor x) = true ∧ fint (ffloor x) = (funits x / unitsPerOne * unitsPerOne : Nat) := by
  have hx := fint_eq_funits h h0
  have hquot : (fint x / (unitsPerOne : Int)).natAbs = funits x / unitsPerOne := by
    rw [hx, ← Int.natCast_ediv, Int.natAbs_natCast]
  obtain ⟨hfin, hval⟩ := fround_of_representable (fsign x) (representable_funits h).floor
  rw [ffloor, isNaN_of_isFinite h, isInf_of_isFinite h, hquot]
  refine ⟨hfin, hval.trans ?_⟩
  split_ifs with hs
  · have hzero : funits x = 0 := by
      rw [fint, if_pos hs] at hx; omega
    simp [hzero]
  · rfl

/-- R18: Frac of a finite value that is not negative is its exact fractional part. -/
theorem frac_of_nonneg {x : F32} (h : isFinite x = true) (h0 : fle f0 x = true) :
    isFinite (frac x) = true ∧ fint (frac x) = (funits x % unitsPerOne : Nat) := by
  obtain ⟨hfin, hfloor⟩ := ffloor_of_nonneg h h0
  refine fsub_of_representable h hfin (representable_funits h).mod_unitsPerOne ?_
  rw [fint_eq_funits h h0, hfloor]
  have := Nat.div_add_mod' (funits x) unitsPerOne
  omega

/-- Settles O26: the fractional part is representable, so the subtraction is exact, and it is below one whole. -/
theorem fracIsExactAndBelowOne : Obligations.FracIsExactAndBelowOne := by
  intro x h h0
  obtain ⟨hfin, hval⟩ := frac_of_nonneg h h0
  have hlt : funits x % unitsPerOne < unitsPerOne := Nat.mod_lt _ (Nat.two_pow_pos 149)
  refine ⟨rfl, ?_, ?_, ?_⟩
  · rw [hval, fint_eq_funits h h0, Int.natCast_emod]
  · rw [fle_iff_fint (by decide) hfin, hval, fint_f0]
    exact Int.natCast_nonneg _
  · rw [flt_iff_fint hfin (by decide), hval, fint_f1]
    exact_mod_cast hlt

end Sys2Proof.Machine
end

section
/-! The exact values of a reference configuration (spec/00_scope.md R15): a real that is itself a positive finite
binary32 value has no other rounded value, so Pow is exact wherever the real power is such a value. -/

namespace Sys2Proof.Machine

/-! ### The rounded value of a representable real -/

/-- Finite patterns of the same value and sign are the same pattern. -/
theorem eq_of_fint_eq {x y : F32} (hx : isFinite x = true) (hy : isFinite y = true)
    (h : fint x = fint y) (hs : fsign x = fsign y) : x = y := by
  have ho : forder x = forder y :=
    le_antisymm ((forder_le_iff hx hy).2 h.le) ((forder_le_iff hy hx).2 h.ge)
  have hm : fmag x = fmag y := by
    unfold forder at ho
    rw [hs] at ho
    split_ifs at ho <;> omega
  rw [← fpack_fields x, ← fpack_fields y, hm, hs]

theorem toRat_eq_iff (x y : F32) : toRat x = toRat y ↔ fint x = fint y := by
  have hone : (unitsPerOne : ℚ) ≠ 0 := by norm_num [unitsPerOne]
  rw [toRat, toRat, div_left_inj' hone, Int.cast_inj]

theorem toRat_pos_iff (x : F32) : 0 < toRat x ↔ 0 < fint x := by
  have hone : (0 : ℚ) < (unitsPerOne : ℚ) := by norm_num [unitsPerOne]
  rw [toRat, div_pos_iff_of_pos_right hone, Int.cast_pos]

/-- The correctly rounded value of a real that is a positive finite pattern's value is that pattern (R15). -/
theorem isRounded_toRat_unique {x y : F32} (hy : isFinite y = true) (hpos : 0 < toRat y)
    (hsmall : toRat y < overflowBound) (h : IsRounded (toRat y : ℝ) x) : x = y := by
  have hpos' : (0 : ℝ) < toRat y := by exact_mod_cast hpos
  have hsmall' : (toRat y : ℝ) < overflowBound := by exact_mod_cast hsmall
  obtain ⟨hsx, -, ⟨-, hx, hnear⟩ | ⟨hbig, -⟩ | ⟨hneg, -⟩⟩ := h
  · have hdist : |(toRat x : ℝ) - toRat y| = 0 := by
      rcases hnear y hy with hlt | ⟨heq, -⟩
      · rw [sub_self, abs_zero] at hlt
        exact absurd hlt (abs_nonneg _).not_gt
      · rwa [sub_self, abs_zero] at heq
    have hval : toRat x = toRat y := by
      exact_mod_cast sub_eq_zero.1 (abs_eq_zero.1 hdist)
    have hsy : fsign y = false := by
      by_contra hs
      have := (toRat_pos_iff y).1 hpos
      rw [fint, if_pos (by simpa using hs)] at this
      omega
    exact eq_of_fint_eq hx hy ((toRat_eq_iff x y).1 hval) ((hsx hpos').trans hsy.symm)
  · exact absurd hbig hsmall'.not_ge
  · linarith

theorem toRat_f2 : toRat f2 = 2 := by
  have : fint f2 = 2 * (unitsPerOne : Int) := by decide
  norm_num [toRat, this, unitsPerOne]

theorem isRounded_one_unique {x : F32} (h : IsRounded 1 x) : x = f1 := by
  refine isRounded_toRat_unique (by decide) (by rw [toRat_f1]; norm_num) ?_ ?_
  · rw [toRat_f1]; norm_num [overflowBound]
  · simpa [toRat_f1] using h

/-! ### Exact powers -/

theorem IsReference.pow_rounded {c : Config} (h : IsReference c) {a b : F32} (ha : isFinite a = true)
    (hb : isFinite b = true) (hpos : 0 < toRat a) : IsRounded ((toRat a : ℝ) ^ (toRat b : ℝ)) (c.pow a b) := by
  obtain ⟨-, -, -, hpow, -⟩ := h
  exact hpow a b ha hb (.inl hpos)

theorem IsReference.pow_one_left {c : Config} (h : IsReference c) (b : F32) : c.pow f1 b = f1 := by
  obtain ⟨-, -, -, -, -, -, -, hone⟩ := h
  exact hone b

theorem IsReference.pow_zero_left {c : Config} (h : IsReference c) {b : F32} (hb : isFinite b = true)
    (hpos : 0 < toRat b) : c.pow f0 b = f0 := by
  obtain ⟨-, -, -, -, -, -, hzero, -⟩ := h
  exact hzero b hb hpos

/-- A positive base to either zero is 1.0. -/
theorem IsReference.pow_zero_right {c : Config} (h : IsReference c) {a b : F32} (ha : isFinite a = true)
    (hpos : 0 < toRat a) (hb : isFinite b = true) (hzero : toRat b = 0) : c.pow a b = f1 := by
  have hr := h.pow_rounded ha hb hpos
  rw [hzero, Rat.cast_zero, Real.rpow_zero] at hr
  exact isRounded_one_unique hr

theorem IsReference.pow_two_one {c : Config} (h : IsReference c) : c.pow f2 f1 = f2 := by
  have hpos : 0 < toRat f2 := by rw [toRat_f2]; norm_num
  have hsmall : toRat f2 < overflowBound := by rw [toRat_f2]; norm_num [overflowBound]
  have hr := h.pow_rounded (a := f2) (b := f1) (by decide) (by decide) hpos
  rw [toRat_f1, Rat.cast_one, Real.rpow_one] at hr
  exact isRounded_toRat_unique (by decide) hpos hsmall hr

theorem IsReference.pow_two_zero {c : Config} (h : IsReference c) : c.pow f2 f0 = f1 :=
  h.pow_zero_right (by decide) ((toRat_pos_iff f2).2 (by decide)) (by decide) toRat_f0

/-! ### Frequencies, velocities and gains at the exact powers -/

/-- R161: note 69 is no semitone from itself. -/
theorem keyFreq_69 {c : Config} (h : c.pow f2 f0 = f1) : keyFreq c 69#7 = f440 := by
  have hexp : fdiv (fsub (noteToF32 69#7) f69) f12 = f0 := by decide +kernel
  have hmul : fmul f440 f1 = f440 := by decide +kernel
  rw [keyFreq, hexp, h, hmul]

/-- R161: note 81 is an octave above note 69. -/
theorem keyFreq_81 {c : Config} (h : c.pow f2 f1 = f2) : keyFreq c 81#7 = 0x445C0000#32 := by
  have hexp : fdiv (fsub (noteToF32 81#7) f69) f12 = f1 := by decide +kernel
  have hmul : fmul f440 f2 = 0x445C0000#32 := by decide +kernel
  rw [keyFreq, hexp, h, hmul]

theorem voiceNoteOn_velocityLevel (c : Config) (srF : F32) (n : Note) (vel : Velocity) (v : Voice) :
    (voiceNoteOn c srF n vel v).env.velocityLevel = c.pow (vnormOf vel) f0p8 := rfl

theorem vnormOf_zero : vnormOf 0#7 = f0 := by decide +kernel

theorem vnormOf_127 : vnormOf 127#7 = f1 := by decide +kernel

/-- R262: a zero number of decibels, of either sign, is unit gain. -/
theorem IsReference.dbToLin_zero {c : Config} (h : IsReference c) {db : F32} (hfin : isFinite (fdiv db f20) = true)
    (hzero : fint (fdiv db f20) = 0) : dbToLin c db = f1 :=
  h.pow_zero_right (by decide) ((toRat_pos_iff f10).2 (by decide)) hfin (by simp [toRat, hzero])

/-- Settles O60, each value from the exact power it takes. -/
theorem referenceExactValues : Obligations.ReferenceExactValues := by
  intro c h
  have hpow0 : c.pow f0 f0p8 = f0 := h.pow_zero_left (by decide) ((toRat_pos_iff f0p8).2 (by decide))
  have hpow10 : c.pow f10 f0 = f1 :=
    h.pow_zero_right (by decide) ((toRat_pos_iff f10).2 (by decide)) (by decide) toRat_f0
  refine ⟨h.pow_two_zero, h.pow_one_left, hpow0, hpow10, keyFreq_69 h.pow_two_zero, keyFreq_81 h.pow_two_one,
    fun srF n v => ⟨?_, ?_⟩, ?_, ?_⟩
  · rw [voiceNoteOn_velocityLevel, vnormOf_zero, hpow0]
  · rw [voiceNoteOn_velocityLevel, vnormOf_127, h.pow_one_left]
  · exact h.dbToLin_zero (by decide +kernel) (by decide +kernel)
  · exact h.dbToLin_zero (by decide +kernel) (by decide +kernel)

end Sys2Proof.Machine
end

section
/-! Which registers a command leaves alone (spec/10_state.md). `KeptByEffects` lists the effects that `exec_next` says a
command can have; a use of it names only the effects that write registers of its property, since for the others the
property of the state after is by definition the property of the state before. -/

namespace Sys2Proof.Machine

/-! ### Properties that every effect keeps, but those of some commands -/

/-- Every effect of a command keeps `P`, unless the command is one of `E`. Construction writes all but the error flags, so `build` is
always shown; any other effect is shown where it writes a register of `P`. -/
structure KeptByEffects (E : Instr → Prop) (P : State → Prop) : Prop where
  stream : ∀ s r, P s → P { s with stream := r } := by exact fun _ _ h => h
  flag : ∀ e s, P s → P (setFlag e s) := by rintro (_ | _ | _ | _) s h <;> exact h
  clear : ∀ s, P s → P (clearFlags s) := by exact fun _ h => h
  build : ∀ u s, ¬ E (.setRate u) → admittedRate u = true → P s → P (construct actual u s)
  noteOn : ∀ n v s, s.cfg = true → P s → P (noteOn actual n v s) := by exact fun _ _ _ _ h => h
  noteOff : ∀ n s, s.cfg = true → P s → P (noteOff n s) := by exact fun _ _ _ h => h
  frame : ∀ s, ¬ E .sample → s.cfg = true → P s → P (sampleFrame actual s) := by exact fun _ _ _ h => h
  room : ∀ f s, isNaN f = false → P s → P (setRoom f s) := by exact fun _ _ _ h => h
  damp : ∀ f s, isNaN f = false → P s → P (setDamp f s) := by exact fun _ _ _ h => h
  mix : ∀ f w d x s, isNaN f = false → (w = s.rv.wet ∨ w = clampUnit f) → (d = s.rv.dry ∨ d = clampUnit f) →
    (x = s.rv.width ∨ x = clampUnit f) → P s →
      P { s with rv := { s.rv with wet := w, dry := d, width := x } } := by exact fun _ _ _ _ _ _ _ _ _ h => h
  thresh : ∀ f s, isNaN f = false → P s → P (setThresh actual f s) := by exact fun _ _ _ h => h
  attack : ∀ f s, isNaN f = false → P s → P (setAttack actual f s) := by exact fun _ _ _ h => h
  release : ∀ f s, isNaN f = false → P s → P (setRelease actual f s) := by exact fun _ _ _ h => h
  makeup : ∀ f s, isNaN f = false → P s → P (setMakeup actual f s) := by exact fun _ _ _ h => h

theorem KeptByEffects.exec {E : Instr → Prop} {P : State → Prop} (hP : KeptByEffects E P) {i : Instr} {s t : State}
    (hi : ¬ E i) (hp : P s) (h : exec i s = .next t) : P t := by
  rcases exec_next h with ⟨e, rfl⟩ | rfl | ⟨-, rfl⟩ | ⟨u, rfl, hu, rfl⟩ | ⟨hc, hunits⟩
  · exact hP.flag e s hp
  · exact hp
  · exact hP.clear s hp
  · exact hP.build u s hi hu hp
  · rcases hunits with ⟨-, n, v, -, rfl⟩ | ⟨-, n, -, -, rfl⟩ | ⟨rfl, -, rfl⟩ | ⟨f, -, hf, hset⟩
    · exact hP.noteOn n v s hc hp
    · exact hP.noteOff n s hc hp
    · exact hP.frame s hi hc hp
    · rcases hset with rfl | rfl | ⟨w, d, x, rfl, hw, hd, hx⟩ | rfl | rfl | rfl | rfl
      · exact hP.room f s hf hp
      · exact hP.damp f s hf hp
      · exact hP.mix f w d x s hf hw hd hx hp
      · exact hP.thresh f s hf hp
      · exact hP.attack f s hf hp
      · exact hP.release f s hf hp
      · exact hP.makeup f s hf hp

/-- A step keeps the property, or its word was one of the excepted commands. -/
theorem KeptByEffects.step_or {E : Instr → Prop} {P : State → Prop} (hP : KeptByEffects E P) {s t : State} (hp : P s)
    (h : step s = .next t) : P t ∨ ∃ w rest i, s.stream = w :: rest ∧ decode w = .ok i ∧ E i := by
  rcases step_next h with ⟨-, rfl⟩ | ⟨w, rest, i, hs, hd, hx⟩ | ⟨-, rest, -, -, -, rfl⟩
  · exact .inl hp
  · by_cases hi : E i
    · exact .inr ⟨w, rest, i, hs, hd, hi⟩
    · exact .inl (hP.exec hi (hP.stream s rest hp) hx)
  · exact .inl (hP.flag _ _ (hP.stream s rest hp))

/-- With no command excepted, a step keeps the property. -/
theorem KeptByEffects.step {P : State → Prop} (hP : KeptByEffects (fun _ => False) P) {s t : State} (hp : P s)
    (h : step s = .next t) : P t :=
  (hP.step_or hp h).resolve_right fun ⟨_, _, _, _, _, hi⟩ => hi

end Sys2Proof.Machine
end

section
/-! The registers of spec/10_state.md: STATUS, who writes CFG, SR, SR_F, OUT and the delay lines, and what every step keeps
of the registers. -/

namespace Sys2Proof.Machine

/-! ### STATUS (R48) -/

theorem getLsbD_statusBit (b : Bool) {i : Nat} (hi : i < 32) (j : Nat) :
    (statusBit b i).getLsbD j = (decide (j = i) && b) := by
  rcases lt_trichotomy j i with h | rfl | h
  · simp [statusBit, h, h.ne]
  · simp [statusBit, hi]
  · simp [statusBit, h.ne', BitVec.getLsbD_ofBool, Nat.sub_eq_zero_iff_le, h]

/-- A bit of STATUS, as the fields that may lie there (R48). -/
theorem getLsbD_status (s : State) (j : Nat) :
    (status s).getLsbD j =
      (decide (j = 0) && s.cfg || decide (j = 1) && s.errIllegal || decide (j = 2) && s.errUncfg ||
        decide (j = 3) && s.errRange || decide (j = 4) && s.errNan ||
        (decide (j = 8) && (s.cfg && s.voices[0].active) || decide (j = 9) && (s.cfg && s.voices[1].active) ||
          decide (j = 10) && (s.cfg && s.voices[2].active) || decide (j = 11) && (s.cfg && s.voices[3].active) ||
          decide (j = 12) && (s.cfg && s.voices[4].active) || decide (j = 13) && (s.cfg && s.voices[5].active) ||
          decide (j = 14) && (s.cfg && s.voices[6].active) || decide (j = 15) && (s.cfg && s.voices[7].active))) := by
  simp (disch := decide) only [status, activeField, BitVec.getLsbD_or, getLsbD_statusBit]

/-- Settles O1: every field of STATUS is a one-bit field at its own place. -/
theorem statusBitLayout : Obligations.StatusBitLayout := by
  intro s
  simp only [getLsbD_status]
  refine ⟨by simp, by simp, by simp, by simp, by simp, fun i => ?_, fun j hj => ?_⟩
  · fin_cases i <;> simp
  · have hne : ∀ k, k < 5 ∨ (8 ≤ k ∧ k < 16) → decide (j = k) = false := fun k hk => by simp; omega
    simp (disch := decide) only [hne, Bool.false_and, Bool.or_false]

/-! ### Who writes what -/

/-- The rate registers are those of `s` (R32, R33). -/
def SameRate (s t : State) : Prop := t.cfg = s.cfg ∧ t.sr = s.sr ∧ t.srF = s.srF

theorem sameRate_keptByEffects (s : State) : KeptByEffects (fun i => ∃ u, i = .setRate u) (SameRate s) where
  build u _ hi _ _ := absurd ⟨u, rfl⟩ hi

/-- Settles O56: the one effect that writes a rate register is SET_RATE's. -/
theorem onlySetRateWritesRate : Obligations.OnlySetRateWritesRate := by
  intro s t h hne
  rcases (sameRate_keptByEffects s).step_or ⟨rfl, rfl, rfl⟩ h with ⟨hc, hr, hf⟩ | ⟨w, rest, _, hs, hd, u, rfl⟩
  · simp [hc, hr, hf] at hne
  · exact ⟨w, rest, u, hs, hd⟩

/-- OUT and the delay lines are those of `s`; a comb's feedback and damp may differ (R34, R80, R84). -/
def SameOutAndLines (s t : State) : Prop :=
  t.out = s.out ∧
    (∀ k : Fin 4, t.combs[k].buf = s.combs[k].buf ∧ t.combs[k].idx = s.combs[k].idx ∧
      t.combs[k].len = s.combs[k].len ∧ t.combs[k].store = s.combs[k].store) ∧
    ∀ a : Fin 2, t.aps[a] = s.aps[a]

theorem recomputeCombs_comb (s : State) (k : Fin 4) :
    (recomputeCombs s).combs[k] =
      { s.combs[k] with feedback := fadd (fmul s.rv.roomSize f0p6) f0p4, damp := s.rv.damping } := by simp

theorem SameOutAndLines.recomputeCombs {s t : State} (h : SameOutAndLines s t) :
    SameOutAndLines s (recomputeCombs t) := by
  obtain ⟨hout, hcombs, haps⟩ := h
  exact ⟨hout, fun k => by simpa only [recomputeCombs_comb] using hcombs k, haps⟩

theorem sameOutAndLines_keptByEffects (s : State) :
    KeptByEffects (fun i => i = .sample ∨ ∃ u, i = .setRate u) (SameOutAndLines s) where
  build u _ hi _ _ := absurd (.inr ⟨u, rfl⟩) hi
  frame _ hi _ _ := absurd (.inl rfl) hi
  room f t _ h := SameOutAndLines.recomputeCombs (t := { t with rv := { t.rv with roomSize := clampUnit f } }) h
  damp f t _ h := SameOutAndLines.recomputeCombs (t := { t with rv := { t.rv with damping := clampUnit f } }) h

/-- Settles O57: of the other effects only SET_ROOM's and SET_DAMP's write the combs, and not these fields. -/
theorem onlySampleAndSetRateWriteOutAndLines : Obligations.OnlySampleAndSetRateWriteOutAndLines := fun s _ h =>
  (sameOutAndLines_keptByEffects s).step_or ⟨rfl, fun _ => ⟨rfl, rfl, rfl, rfl⟩, fun _ => rfl⟩ h

/-! ### Power-on -/

theorem powerOnOk_of_cfg {s : State} (h : s.cfg = true) : PowerOnOk s := fun h' => by simp [h] at h'

theorem powerOnOk_keptByEffects : KeptByEffects (fun _ => False) PowerOnOk where
  build _ _ _ _ _ := powerOnOk_of_cfg rfl
  noteOn _ _ _ hc _ := powerOnOk_of_cfg hc
  noteOff _ _ hc _ := powerOnOk_of_cfg hc
  frame _ _ hc _ := powerOnOk_of_cfg hc

/-- Settles O52: only commands that need the units write SR, SR_F, OUT or a voice, or SET_RATE, which sets CFG. -/
theorem stepKeepsPowerOnState : Obligations.StepKeepsPowerOnState := fun _ _ hp h => powerOnOk_keptByEffects.step hp h

/-! ### Legal parameters -/

theorem inRange_clampUnit {f : F32} (hf : isNaN f = false) : inRange f0 f1 (clampUnit f) = true :=
  fclamp_inRange hf (by decide)

/-- A register that a setter left or wrote with its clamped operand. -/
theorem inRange_of_eq_or_clampUnit {f x y : F32} (hf : isNaN f = false) (hy : inRange f0 f1 y = true)
    (h : x = y ∨ x = clampUnit f) : inRange f0 f1 x = true := by
  rcases h with rfl | rfl
  · exact hy
  · exact inRange_clampUnit hf

theorem actual_attMin_le : fle actual.attMin actual.attMax = true := by
  have h := actual_legal
  simp only [legal, Bool.and_eq_true] at h
  tauto

theorem actual_relMin_le : fle actual.relMin actual.relMax = true := by
  have h := actual_legal
  simp only [legal, Bool.and_eq_true] at h
  tauto

theorem paramsLegal_construct (u : BitVec 32) (s : State) : ParamsLegal actual (construct actual u s) := by
  have h := actual_legal
  simp only [legal, Bool.and_eq_true] at h
  intro _
  simp only [construct_rv, construct_lim, builtReverb, builtLimiter]
  tauto

theorem paramsLegal_keptByEffects : KeptByEffects (fun _ => False) (ParamsLegal actual) where
  build u s _ _ _ := paramsLegal_construct u s
  room f s hf h hc := by
    obtain ⟨-, hrest⟩ := h hc
    exact ⟨inRange_clampUnit hf, hrest⟩
  damp f s hf h hc := by
    obtain ⟨hroom, -, hrest⟩ := h hc
    exact ⟨hroom, inRange_clampUnit hf, hrest⟩
  mix f w d x s hf hw hd hx h hc := by
    obtain ⟨hroom, hdamp, hwet, hdry, hwidth, hrest⟩ := h hc
    exact ⟨hroom, hdamp, inRange_of_eq_or_clampUnit hf hwet hw, inRange_of_eq_or_clampUnit hf hdry hd,
      inRange_of_eq_or_clampUnit hf hwidth hx, hrest⟩
  thresh f s hf h hc := by
    obtain ⟨hroom, hdamp, hwet, hdry, hwidth, -, hrest⟩ := h hc
    exact ⟨hroom, hdamp, hwet, hdry, hwidth, fclamp_inRange hf (by decide), hrest⟩
  makeup f s hf h hc := by
    obtain ⟨hroom, hdamp, hwet, hdry, hwidth, hthresh, -, hrest⟩ := h hc
    exact ⟨hroom, hdamp, hwet, hdry, hwidth, hthresh, fclamp_inRange hf (by decide), hrest⟩
  attack f s hf h hc := by
    obtain ⟨hroom, hdamp, hwet, hdry, hwidth, hthresh, hmakeup, -, hrelease⟩ := h hc
    exact ⟨hroom, hdamp, hwet, hdry, hwidth, hthresh, hmakeup, fclamp_inRange hf actual_attMin_le, hrelease⟩
  release f s hf h hc := by
    obtain ⟨hroom, hdamp, hwet, hdry, hwidth, hthresh, hmakeup, hattack, -⟩ := h hc
    exact ⟨hroom, hdamp, hwet, hdry, hwidth, hthresh, hmakeup, hattack, fclamp_inRange hf actual_relMin_le⟩

/-- Settles O53: construction writes values of a legal configuration, and a setter writes a clamped operand. -/
theorem stepKeepsParametersLegal : Obligations.StepKeepsParametersLegal :=
  fun _ _ hp h => paramsLegal_keptByEffects.step hp h

/-! ### Computed registers: the rate and the lengths -/

theorem sampleFrame_comb (c : Config) (s : State) (k : Fin 4) :
    (sampleFrame c s).combs[k] = (combProcess s.combs[k] (voiceSum c s)).1 := by
  rw [sampleFrame_combs, combsAfter_get]

theorem sampleFrame_ap (c : Config) (s : State) (a : Fin 2) :
    ∃ y, (sampleFrame c s).aps[a] = (allpassProcess s.aps[a] y).1 := by
  rw [sampleFrame_aps]
  exact apsAfter_cases _ _ _ a

theorem rateOk_construct {u : BitVec 32} (hu : admittedRate u = true) (c : Config) (s : State) :
    RateOk (construct c u s) :=
  fun _ => ⟨hu, rfl, fun k => by simp [builtComb], fun a => by simp [builtAllpass]⟩

theorem RateOk.recomputeCombs {s : State} (h : RateOk s) : RateOk (recomputeCombs s) := by
  intro hc
  obtain ⟨hu, hf, hlen, haps⟩ := h hc
  exact ⟨hu, hf, fun k => by rw [recomputeCombs_comb]; exact hlen k, haps⟩

theorem RateOk.sampleFrame {s : State} (h : RateOk s) (c : Config) : RateOk (sampleFrame c s) := by
  intro hc
  obtain ⟨hu, hf, hlen, haps⟩ := h (by simpa using hc)
  refine ⟨by simpa using hu, by simpa using hf, fun k => ?_, fun a => ?_⟩
  · rw [sampleFrame_comb, sampleFrame_srF]
    exact hlen k
  · obtain ⟨y, hy⟩ := sampleFrame_ap c s a
    rw [hy, sampleFrame_srF]
    exact haps a

theorem rateOk_keptByEffects : KeptByEffects (fun _ => False) RateOk where
  build _ s _ hu _ := rateOk_construct hu actual s
  frame _ _ _ h := h.sampleFrame actual
  room f s _ h := RateOk.recomputeCombs (s := { s with rv := { s.rv with roomSize := clampUnit f } }) h
  damp f s _ h := RateOk.recomputeCombs (s := { s with rv := { s.rv with damping := clampUnit f } }) h

/-! ### Computed registers: the limiter and the combs -/

/-- A setter of the limiter writes a register and what is computed from it together, and leaves the other pairs. -/
theorem limiterCached_keptByEffects : KeptByEffects (fun _ => False) (LimiterCached actual) where
  build _ _ _ _ _ := fun _ => ⟨rfl, rfl, rfl, rfl⟩
  thresh _ _ _ h hc := by
    obtain ⟨-, hrest⟩ := h hc
    exact ⟨rfl, hrest⟩
  makeup _ _ _ h hc := by
    obtain ⟨hthresh, -, hrest⟩ := h hc
    exact ⟨hthresh, rfl, hrest⟩
  attack _ _ _ h hc := by
    obtain ⟨hthresh, hmakeup, -, hrelease⟩ := h hc
    exact ⟨hthresh, hmakeup, rfl, hrelease⟩
  release _ _ _ h hc := by
    obtain ⟨hthresh, hmakeup, hattack, -⟩ := h hc
    exact ⟨hthresh, hmakeup, hattack, rfl⟩

theorem combsCached_construct (c : Config) (u : BitVec 32) (s : State) : CombsCached (construct c u s) :=
  fun _ => .inl fun k => by simp [builtComb]

theorem combsCached_recomputeCombs (s : State) : CombsCached (recomputeCombs s) :=
  fun _ => .inr fun k => by rw [recomputeCombs_comb]; exact ⟨rfl, rfl⟩

theorem CombsCached.sampleFrame {s : State} (h : CombsCached s) (c : Config) : CombsCached (sampleFrame c s) := by
  intro hc
  simp only [sampleFrame_comb, sampleFrame_rv]
  exact h (by simpa using hc)

theorem combsCached_keptByEffects : KeptByEffects (fun _ => False) CombsCached where
  build u s _ _ _ := combsCached_construct actual u s
  frame _ _ _ h := h.sampleFrame actual
  room _ _ _ _ := combsCached_recomputeCombs _
  damp _ _ _ _ := combsCached_recomputeCombs _

/-! ### A property of every voice -/

section
variable (Q : Voice → Prop)

theorem construct_forall_voices (c : Config) (u : BitVec 32) (s : State) (hQ : Q (builtVoice c (rateF32 u))) :
    ∀ i : Fin 8, Q (construct c u s).voices[i] := by
  intro i
  simpa using hQ

theorem noteOn_forall_voices {s : State} (c : Config) (n : Note) (vel : Velocity) (h : ∀ i : Fin 8, Q s.voices[i])
    (hQ : ∀ v, Q v → Q (voiceNoteOn c s.srF n vel v)) : ∀ i : Fin 8, Q (noteOn c n vel s).voices[i] := by
  intro i
  rw [noteOn_voices, Fin.getElem_fin, Vector.getElem_set]
  split_ifs with hi
  · exact hQ _ (h _)
  · exact h i

theorem noteOff_forall_voices {s : State} (n : Note) (h : ∀ i : Fin 8, Q s.voices[i])
    (hQ : ∀ v, Q v → Q (voiceNoteOff v)) : ∀ i : Fin 8, Q (noteOff n s).voices[i] := by
  intro i
  rw [noteOff_voice, noteOffVoice]
  split_ifs
  · exact hQ _ (h i)
  · exact h i

theorem sampleFrame_voice (c : Config) (s : State) (i : Fin 8) :
    (sampleFrame c s).voices[i] = (voiceProcess c s.srF i s.voices[i]).1 := by
  rw [sampleFrame_voices, voicesAfter_get, frameVoice]

theorem sampleFrame_forall_voices {s : State} (c : Config) (h : ∀ i : Fin 8, Q s.voices[i])
    (hQ : ∀ i v, Q v → Q (voiceProcess c s.srF i v).1) : ∀ i : Fin 8, Q (sampleFrame c s).voices[i] := by
  intro i
  rw [sampleFrame_voice]
  exact hQ i _ (h i)

end

/-! ### Computed registers: the voices -/

/-- `VoicesCached` of one voice, at rate `srF` (R38, R165). -/
def VoiceCached (c : Config) (srF : F32) (v : Voice) : Prop :=
  v.env.sustainLevel = c.sustainLevel ∧ v.env.attackRate = c.attackRate srF ∧ v.env.decayRate = c.decayRate srF ∧
    v.env.releaseRate = c.releaseRate srF ∧
    ∀ key : Key, v.key = some key →
      key.freq = keyFreq c key.note ∧ v.phaseDelta = fdiv key.freq srF ∧
      v.env.velocityLevel = c.pow v.vnorm f0p8 ∧
      v.env.sustainDecayRate = sustainDecayOf c srF key.freq v.vnorm

theorem voiceCached_builtVoice (c : Config) (srF : F32) : VoiceCached c srF (builtVoice c srF) :=
  ⟨rfl, rfl, rfl, rfl, fun _ h => by simp [builtVoice] at h⟩

theorem VoiceCached.voiceNoteOn {c : Config} {srF : F32} {v : Voice} (h : VoiceCached c srF v) (n : Note)
    (vel : Velocity) : VoiceCached c srF (voiceNoteOn c srF n vel v) := by
  obtain ⟨hs, ha, hd, hr, -⟩ := h
  refine ⟨hs, ha, hd, hr, fun key hkey => ?_⟩
  obtain rfl : pianoKey c n = key := by simpa [Machine.voiceNoteOn] using hkey
  exact ⟨rfl, rfl, rfl, rfl⟩

/-- One sample moves the phases, the tracker and the envelope's level and state, and none of these registers. -/
theorem VoiceCached.voiceProcess {c : Config} {srF : F32} {v : Voice} (h : VoiceCached c srF v) (i : Fin 8) :
    VoiceCached c srF (voiceProcess c srF i v).1 := by
  obtain ⟨hkey, hdelta, hvnorm⟩ := voiceProcess_keeps c srF i v
  unfold VoiceCached
  rw [hkey, hdelta, hvnorm]
  rcases voiceProcess_env c srF i v with he | he <;> rw [he]
  · exact h
  · simpa [VoiceCached] using h

theorem voicesCached_keptByEffects : KeptByEffects (fun _ => False) (VoicesCached actual) where
  build u s _ _ _ _ :=
    construct_forall_voices (VoiceCached actual (rateF32 u)) actual u s (voiceCached_builtVoice actual (rateF32 u))
  noteOn n vel s hc h _ :=
    noteOn_forall_voices (VoiceCached actual s.srF) actual n vel (h hc) fun _ hv => hv.voiceNoteOn n vel
  noteOff n s hc h _ := noteOff_forall_voices (VoiceCached actual s.srF) n (h hc) fun _ hv => hv
  frame s _ hc h _ := by
    rw [sampleFrame_srF]
    exact sampleFrame_forall_voices (VoiceCached actual s.srF) actual (h hc) fun i _ hv => hv.voiceProcess i

/-- Settles O54: each group of computed registers is kept by itself. -/
theorem stepKeepsComputedRegisters : Obligations.StepKeepsComputedRegisters := fun _ _ hrate hlim hcombs hvoices h =>
  ⟨rateOk_keptByEffects.step hrate h, limiterCached_keptByEffects.step hlim h, combsCached_keptByEffects.step hcombs h,
    voicesCached_keptByEffects.step hvoices h⟩

end Sys2Proof.Machine
end

section
/-! The accumulators of a voice stay in [0, 1) (spec/10_state.md R37). The rate is exact in binary32, so the tracker moves
by less than the distance to 1.0 leaves room for; Frac is exact, so a phase is below 1 again. -/

namespace Sys2Proof.Machine

/-! ### The rate (R33) -/

theorem admittedRate_iff {u : BitVec 32} : admittedRate u = true ↔ 8000 ≤ u.toNat ∧ u.toNat ≤ 192000 := by
  simp only [admittedRate, Bool.and_eq_true, decide_eq_true_eq]
  rfl

theorem representable_rate {u : BitVec 32} (hu : admittedRate u = true) : Representable (u.toNat * unitsPerOne) := by
  obtain ⟨-, hmax⟩ := admittedRate_iff.1 hu
  exact ⟨u.toNat, 149, by omega, by decide, rfl⟩

/-- Settles O45: an admitted rate has fewer than 24 bits. -/
theorem rateConversionIsExact : Obligations.RateConversionIsExact := by
  intro u hu
  obtain ⟨-, hval⟩ := fround_of_representable false (representable_rate hu)
  simpa [rateF32, u32tof32] using hval

theorem isFinite_rateF32 {u : BitVec 32} (hu : admittedRate u = true) : isFinite (rateF32 u) = true :=
  (fround_of_representable false (representable_rate hu)).1

/-! ### What rounding and adding do to signs and bounds -/

@[simp] theorem fsign_fround (neg : Bool) (n d : Nat) : fsign (fround neg n d) = neg :=
  fsign_fpack neg (roundMag_lt n d)

@[simp] theorem fmag_fround (neg : Bool) (n d : Nat) : fmag (fround neg n d) = roundMag n d :=
  fmag_fpack neg (roundMag_lt n d)

theorem fint_of_fsign {x : F32} (h : fsign x = false) : fint x = funits x := by simp [fint, h]

theorem funits_le {a b : F32} (hb : isFinite b = true) (h : fmag a ≤ fmag b) : funits a ≤ funits b := by
  rcases h.lt_or_eq with hlt | heq
  · exact (funits_lt hb hlt).le
  · exact (funits_congr heq).le

/-- Rounding does not pass a representable number that is not below the exact value. -/
theorem fround_le_of_representable (neg : Bool) {n d m : Nat} (hd : 0 < d) (hm : Representable m) (h : n ≤ m * d) :
    isFinite (fround neg n d) = true ∧ funits (fround neg n d) ≤ m := by
  obtain ⟨x, hx, rfl⟩ := exists_funits_eq hm
  have hmag : fmag (fround neg n d) ≤ fmag x := by
    rw [fmag_fround, ← roundMag_funits hx]
    exact roundMag_mono hd Nat.one_pos (by simpa using h)
  have hfin : fmag x < 0x7F800000 := by simpa [isFinite] using hx
  exact ⟨by rw [isFinite, decide_eq_true_eq]; omega, funits_le hx hmag⟩

theorem representable_two_pow {e : Nat} (h : e ≤ 253) : Representable (2 ^ e) := ⟨1, e, by decide, h, by simp⟩

theorem exists_two_pow_between {n : Nat} (hn : n ≠ 0) : ∃ e, n ≤ 2 ^ e ∧ 2 ^ e ≤ 2 * n := by
  have hlow := Nat.log2_self_le hn
  exact ⟨n.log2 + 1, Nat.lt_log2_self.le, by rw [Nat.pow_succ]; omega⟩

/-- Finite values with clear signs add to their rounded sum, with a clear sign. -/
theorem fadd_of_nonneg {a b : F32} (ha : isFinite a = true) (hb : isFinite b = true) (sa : fsign a = false)
    (sb : fsign b = false) : fadd a b = fround false (funits a + funits b) 1 := by
  have hadd : fadd a b = addFinite a b := by
    simp [fadd, addAs, isNaN_of_isFinite, isInf_of_isFinite, ha, hb]
  rw [hadd, addFinite, fint_of_fsign sa, fint_of_fsign sb]
  split_ifs with h0
  · obtain ⟨h1, h2⟩ : funits a = 0 ∧ funits b = 0 := by omega
    rw [sa, h1, h2, Bool.false_and]
    decide
  · have hneg : ¬ ((funits a : Int) + funits b < 0) := by omega
    rw [decide_eq_false hneg]
    congr 1

theorem fmul_of_nonneg {a b : F32} (ha : isFinite a = true) (hb : isFinite b = true) (sa : fsign a = false)
    (sb : fsign b = false) : fmul a b = fround false (funits a * funits b) unitsPerOne := by
  simp [fmul, isNaN_of_isFinite, isInf_of_isFinite, ha, hb, sa, sb]

theorem fsub_of_finite {a b : F32} (ha : isFinite a = true) (hb : isFinite b = true) :
    fsub a b = addFinite a (fneg b) := by
  have hb' : isFinite (fneg b) = true := by simpa using hb
  simp [fsub, addAs, isNaN_of_isFinite, isInf_of_isFinite, ha, hb']

/-- A difference that is not negative has a clear sign, where the minuend has. -/
theorem fsign_fsub_of_le {a b : F32} (ha : isFinite a = true) (hb : isFinite b = true) (sa : fsign a = false)
    (h : fint b ≤ fint a) : fsign (fsub a b) = false := by
  rw [fsub_of_finite ha hb, addFinite, fint_fneg]
  split_ifs
  · rw [sa, Bool.false_and]
    decide
  · rw [fsign_fround, decide_eq_false (by omega)]

/-- The rounded distance of a value below 1.0 from 1.0. -/
theorem fsub_f1_of_lt {x : F32} (hx : isFinite x = true) (sx : fsign x = false) (hlt : funits x < unitsPerOne) :
    fsub f1 x = fround false (unitsPerOne - funits x) 1 := by
  have hsum : fint f1 + fint (fneg x) = ((unitsPerOne - funits x : Nat) : Int) := by
    rw [fint_f1, fint_fneg, fint_of_fsign sx]
    omega
  rw [fsub_of_finite (by decide) hx, addFinite, hsum, if_neg (by omega), decide_eq_false (by omega),
    Int.natAbs_natCast]

/-! ### Accumulators in [0, 1) -/

theorem unitPhase_iff {x : F32} : unitPhase x = true ↔ fsign x = false ∧ fmag x < 0x3F800000 := by
  have h1 : fsign f1 = false ∧ fmag f1 = 0x3F800000 := by decide
  cases hs : fsign x
  · simp [unitPhase, flt, forder, isNaN, hs, h1]
    omega
  · simp [unitPhase, hs]

theorem unitPhase_f0 : unitPhase f0 = true := by decide

/-- Values below 1.0 keep a distance of the last place there (R13). -/
theorem funits_of_unitPhase {x : F32} (h : unitPhase x = true) :
    isFinite x = true ∧ fsign x = false ∧ funits x + 2 ^ 125 ≤ unitsPerOne := by
  obtain ⟨hs, hm⟩ := unitPhase_iff.1 h
  have hle : funits x ≤ funits 0x3F7FFFFF#32 :=
    funits_le (by decide) (by rw [show fmag 0x3F7FFFFF#32 = 0x3F7FFFFF by decide]; omega)
  have htop : funits 0x3F7FFFFF#32 + 2 ^ 125 = unitsPerOne := by decide +kernel
  exact ⟨by rw [isFinite, decide_eq_true_eq]; omega, hs, by omega⟩

/-- A number of units below the midpoint of 1.0 and the value under it rounds below 1.0. -/
theorem unitPhase_fround {n : Nat} (h : n < unitsPerOne - 2 ^ 124) : unitPhase (fround false n 1) = true := by
  have hround : roundMag n 1 ≤ roundMag (unitsPerOne - 2 ^ 124 - 1) 1 :=
    roundMag_mono Nat.one_pos Nat.one_pos (by omega)
  have htop : roundMag (unitsPerOne - 2 ^ 124 - 1) 1 = 0x3F7FFFFF := by decide +kernel
  rw [unitPhase_iff, fsign_fround, fmag_fround]
  exact ⟨rfl, by omega⟩

/-! ### The attack tracker (R169) -/

theorem fsign_rateF32 (u : BitVec 32) : fsign (rateF32 u) = false := fsign_fround _ _ _

theorem funits_rateF32 {u : BitVec 32} (hu : admittedRate u = true) :
    funits (rateF32 u) = u.toNat * unitsPerOne := by
  have hval := rateConversionIsExact u hu
  rw [fint_of_fsign (fsign_rateF32 u)] at hval
  exact_mod_cast hval

/-- The tracker's rate `50 / SR_F` is at most `2^-7` at an admitted rate. -/
theorem trackerRate_le {u : BitVec 32} (hu : admittedRate u = true) :
    isFinite (fdiv f50 (rateF32 u)) = true ∧ fsign (fdiv f50 (rateF32 u)) = false ∧
      funits (fdiv f50 (rateF32 u)) ≤ 2 ^ 142 := by
  obtain ⟨hmin, -⟩ := admittedRate_iff.1 hu
  have hunits := funits_rateF32 hu
  have hpos : 0 < u.toNat * unitsPerOne := Nat.mul_pos (by omega) (Nat.two_pow_pos 149)
  have hmag : fmag (rateF32 u) ≠ 0 := fun h => by
    have hzero : funits (rateF32 u) = 0 := by simp [funits, h]
    omega
  have hdiv : fdiv f50 (rateF32 u) = fround false (funits f50 * unitsPerOne) (u.toNat * unitsPerOne) := by
    have h50 : isFinite f50 = true ∧ fsign f50 = false := by decide
    simp [fdiv, isNaN_of_isFinite, isInf_of_isFinite, h50, isFinite_rateF32 hu, fsign_rateF32, hmag, hunits]
  have h50 : funits f50 = 50 * unitsPerOne := by decide +kernel
  obtain ⟨hq, hle⟩ := fround_le_of_representable false (n := funits f50 * unitsPerOne) hpos
    (representable_two_pow (e := 142) (by decide)) (by rw [h50, unitsPerOne]; omega)
  rw [hdiv]
  exact ⟨hq, fsign_fround _ _ _, hle⟩

/-- The tracker's move is at most a 64th of its distance from 1.0. Its exact factors are at most `2^-7` and a power of
two that is at most twice the distance, and so are the rounded ones. -/
theorem trackerMove_le {u : BitVec 32} (hu : admittedRate u = true) {ap : F32} (h : unitPhase ap = true) :
    let move := fmul (fdiv f50 (rateF32 u)) (fsub f1 ap)
    isFinite move = true ∧ fsign move = false ∧ 64 * funits move ≤ unitsPerOne - funits ap := by
  obtain ⟨hfin, hsign, hroom⟩ := funits_of_unitPhase h
  obtain ⟨hrate, srate, hrateLe⟩ := trackerRate_le hu
  obtain ⟨e, hlow, hup⟩ := exists_two_pow_between (n := unitsPerOne - funits ap) (by omega)
  have hmax : e < 151 := (Nat.pow_lt_pow_iff_right (a := 2) (by decide)).1 (by rw [unitsPerOne] at hup; omega)
  have hmin : 124 < e := (Nat.pow_lt_pow_iff_right (a := 2) (by decide)).1 (by omega)
  obtain ⟨k, rfl⟩ : ∃ k, e = k + 7 := ⟨e - 7, by omega⟩
  have hdist := fsub_f1_of_lt hfin hsign (by omega)
  obtain ⟨hd, hdLe⟩ := fround_le_of_representable false (n := unitsPerOne - funits ap) Nat.one_pos
    (representable_two_pow (e := k + 7) (by omega)) (by rwa [Nat.mul_one])
  rw [← hdist] at hd hdLe
  have hexact : funits (fdiv f50 (rateF32 u)) * funits (fsub f1 ap) ≤ 2 ^ k * unitsPerOne :=
    calc _ ≤ 2 ^ 142 * 2 ^ (k + 7) := Nat.mul_le_mul hrateLe hdLe
      _ = 2 ^ k * unitsPerOne := by rw [unitsPerOne]; ring
  obtain ⟨hm, hmLe⟩ := fround_le_of_representable false (Nat.two_pow_pos 149)
    (representable_two_pow (e := k) (by omega)) hexact
  rw [Nat.pow_add] at hup
  have hmove := fmul_of_nonneg hrate hd srate (by rw [hdist, fsign_fround])
  simp only [hmove]
  exact ⟨hm, fsign_fround _ _ _, by unfold unitsPerOne at *; omega⟩

/-- R37: the tracker stays below 1.0, since its move leaves more than half of the last place there. -/
theorem unitPhase_attackStep {u : BitVec 32} (hu : admittedRate u = true) {ap : F32} (h : unitPhase ap = true) :
    unitPhase (attackStep (rateF32 u) ap) = true := by
  obtain ⟨hfin, hsign, hroom⟩ := funits_of_unitPhase h
  obtain ⟨hm, sm, hmLe⟩ := trackerMove_le hu h
  rw [attackStep, fadd_of_nonneg hfin hm hsign sm]
  exact unitPhase_fround (by unfold unitsPerOne at *; omega)

/-! ### The phases (R168) -/

/-- A phase and a finite step that is not negative have a finite sum: the greatest value absorbs a phase. -/
theorem isFinite_fadd_of_unitPhase {x d : F32} (hx : unitPhase x = true) (hd : nonNegFinite d = true) :
    isFinite (fadd x d) = true ∧ fsign (fadd x d) = false := by
  obtain ⟨hfin, hsign, hroom⟩ := funits_of_unitPhase hx
  obtain ⟨dfin, dsign⟩ : isFinite d = true ∧ fsign d = false := by simpa [nonNegFinite] using hd
  have hdmag : fmag d < 0x7F800000 := by simpa [isFinite] using dfin
  have hle : funits d ≤ funits 0x7F7FFFFF#32 :=
    funits_le (by decide) (by rw [show fmag 0x7F7FFFFF#32 = 0x7F7FFFFF by decide]; omega)
  have hround : roundMag (funits x + funits d) 1 ≤ roundMag (unitsPerOne + funits 0x7F7FFFFF#32) 1 :=
    roundMag_mono Nat.one_pos Nat.one_pos (by omega)
  have htop : roundMag (unitsPerOne + funits 0x7F7FFFFF#32) 1 = 0x7F7FFFFF := by decide +kernel
  rw [fadd_of_nonneg hfin dfin hsign dsign]
  exact ⟨by rw [isFinite, fmag_fround, decide_eq_true_eq]; omega, fsign_fround _ _ _⟩

theorem unitPhase_frac {x : F32} (h : isFinite x = true) (hs : fsign x = false) : unitPhase (frac x) = true := by
  have h0 : fle f0 x = true := by
    rw [fle_iff_fint (by decide) h, fint_f0, fint_of_fsign hs]
    omega
  obtain ⟨hfloor, hfloorVal⟩ := ffloor_of_nonneg h h0
  have hsign : fsign (frac x) = false := by
    refine fsign_fsub_of_le h hfloor hs ?_
    rw [hfloorVal, fint_of_fsign hs]
    exact_mod_cast Nat.div_mul_le_self _ _
  obtain ⟨-, -, -, hlt⟩ := fracIsExactAndBelowOne x h h0
  rw [unitPhase, hsign, hlt]
  rfl

theorem unitPhase_frac_fadd {x d : F32} (hx : unitPhase x = true) (hd : nonNegFinite d = true) :
    unitPhase (frac (fadd x d)) = true := by
  obtain ⟨hfin, hsign⟩ := isFinite_fadd_of_unitPhase hx hd
  exact unitPhase_frac hfin hsign

/-! ### The note accumulator (R168) -/

/-- At or above 0: no NaN, and no sign bit unless it is −0.0. -/
theorem fle_f0_iff {x : F32} : fle f0 x = true ↔ fmag x ≤ 0x7F800000 ∧ (fsign x = false ∨ fmag x = 0) := by
  have h0 : fsign f0 = false ∧ fmag f0 = 0 := by decide
  cases hs : fsign x <;> simp [fle, forder, isNaN, hs, h0]

theorem fle_f0_of_fsign {x : F32} (h : isNaN x = false) (hs : fsign x = false) : fle f0 x = true :=
  fle_f0_iff.2 ⟨by simpa [isNaN] using h, .inl hs⟩

theorem fint_nonneg_of_fle {x : F32} (h : fle f0 x = true) : 0 ≤ fint x := by
  obtain ⟨-, hs | hm⟩ := fle_f0_iff.1 h
  · rw [fint_of_fsign hs]
    exact Int.natCast_nonneg _
  · simp [fint, funits, hm]

theorem fsign_of_isInf {x : F32} (h : fle f0 x = true) (hi : isInf x = true) : fsign x = false := by
  obtain ⟨-, hs⟩ := fle_f0_iff.1 h
  have hm : fmag x = 0x7F800000 := by simpa [isInf] using hi
  exact hs.resolve_right (by omega)

theorem fle_f0_addFinite {a b : F32} (h : 0 ≤ fint a + fint b) : fle f0 (addFinite a b) = true := by
  unfold addFinite
  split_ifs
  · generalize (fsign a && fsign b) = neg
    cases neg <;> decide
  · refine fle_f0_of_fsign ?_ (by rw [fsign_fround, decide_eq_false (by omega)])
    have := roundMag_le (fint a + fint b).natAbs 1
    rw [isNaN, fmag_fround, decide_eq_false (by omega)]

/-- Sums stay at or above 0, an infinity included: two infinities of one sign make no NaN. -/
theorem fle_f0_fadd {a b : F32} (ha : fle f0 a = true) (hb : fle f0 b = true) : fle f0 (fadd a b) = true := by
  have nan : (isNaN a || isNaN b) = false := by
    simp only [fle, Bool.and_eq_true, Bool.not_eq_true'] at ha hb
    simp [ha, hb]
  rw [fadd, addAs, nan, if_neg Bool.false_ne_true]
  split_ifs with hia hopp hib
  · obtain ⟨hib, hne⟩ := Bool.and_eq_true_iff.1 hopp
    simp [fsign_of_isInf ha hia, fsign_of_isInf hb hib] at hne
  · exact ha
  · exact hb
  · exact fle_f0_addFinite (add_nonneg (fint_nonneg_of_fle ha) (fint_nonneg_of_fle hb))

/-! ### The accumulators of a voice -/

/-- What one sample of a voice does to the accumulators: nothing, or one advance of each (R167 to R169). -/
theorem voiceProcess_accumulators (c : Config) (srF : F32) (i : Fin 8) (v : Voice) :
    let v' := (voiceProcess c srF i v).1
    (v'.phase = v.phase ∧ v'.detunedPhase = v.detunedPhase ∧ v'.notePhase = v.notePhase ∧
      v'.attackPhase = v.attackPhase) ∨
    (v'.phase = frac (fadd v.phase v.phaseDelta) ∧
      v'.detunedPhase = frac (fadd v.detunedPhase (fmul v.phaseDelta c.detune[i])) ∧
      v'.notePhase = fadd v.notePhase (c.noteInc srF) ∧ v'.attackPhase = attackStep srF v.attackPhase) := by
  rcases voiceProcess_cases c srF i v with ⟨-, -, h⟩ | ⟨-, -, h⟩ | ⟨-, -, h⟩ <;> rw [h]
  · exact .inl ⟨rfl, rfl, rfl, rfl⟩
  · exact .inl ⟨rfl, rfl, rfl, rfl⟩
  · exact .inr ⟨rfl, rfl, rfl, rfl⟩

/-- The attack tracker of a voice lies in [0, 1). -/
def TrackerOk (v : Voice) : Prop := unitPhase v.attackPhase = true

theorem TrackerOk.voiceProcess {v : Voice} (h : TrackerOk v) {u : BitVec 32} (hu : admittedRate u = true) (c : Config)
    (i : Fin 8) : TrackerOk (voiceProcess c (rateF32 u) i v).1 := by
  unfold TrackerOk
  rcases voiceProcess_accumulators c (rateF32 u) i v with ⟨-, -, -, heq⟩ | ⟨-, -, -, heq⟩ <;> rw [heq]
  · exact h
  · exact unitPhase_attackStep hu h

theorem trackersOk_keptByEffects : KeptByEffects (fun _ => False) TrackersOk where
  build u s _ hu _ _ := ⟨hu, rfl, construct_forall_voices TrackerOk actual u s unitPhase_f0⟩
  noteOn n vel s hc h _ := by
    obtain ⟨hu, hf, hv⟩ := h hc
    exact ⟨hu, hf, noteOn_forall_voices TrackerOk actual n vel hv fun _ _ => unitPhase_f0⟩
  noteOff n s hc h _ := by
    obtain ⟨hu, hf, hv⟩ := h hc
    exact ⟨hu, hf, noteOff_forall_voices TrackerOk n hv fun _ hv => hv⟩
  frame s _ hc h _ := by
    obtain ⟨hu, hf, hv⟩ := h hc
    rw [sampleFrame_sr, sampleFrame_srF]
    refine ⟨hu, hf, sampleFrame_forall_voices TrackerOk actual hv fun i v hv => ?_⟩
    rw [hf]
    exact hv.voiceProcess hu actual i

/-- Settles O59: a note-on and a construction reset the tracker, and a frame moves it by `unitPhase_attackStep`. -/
theorem stepKeepsAttackTrackers : Obligations.StepKeepsAttackTrackers :=
  fun _ _ hp h => trackersOk_keptByEffects.step hp h

/-- `AccumulatorsOk` of one voice (R37). -/
def VoiceAccumulatorsOk (v : Voice) : Prop :=
  unitPhase v.phase = true ∧ unitPhase v.detunedPhase = true ∧ fle f0 v.notePhase = true

theorem VoiceAccumulatorsOk.voiceNoteOn {v : Voice} (h : VoiceAccumulatorsOk v) (c : Config) (srF : F32) (n : Note)
    (vel : Velocity) : VoiceAccumulatorsOk (voiceNoteOn c srF n vel v) := by
  obtain ⟨hphase, hdetuned, -⟩ := h
  exact ⟨hphase, hdetuned, fle_refl (by decide)⟩

theorem accumulatorsOk_keptByEffects : KeptByEffects (· = .sample) AccumulatorsOk where
  build u s _ _ _ :=
    construct_forall_voices VoiceAccumulatorsOk actual u s ⟨unitPhase_f0, unitPhase_f0, fle_refl (by decide)⟩
  noteOn n vel s _ h :=
    noteOn_forall_voices VoiceAccumulatorsOk actual n vel h fun _ hv => hv.voiceNoteOn actual s.srF n vel
  noteOff n s _ h := noteOff_forall_voices VoiceAccumulatorsOk n h fun _ hv => hv
  frame _ hi _ _ := absurd rfl hi

/-- Settles O27: a frame advances each accumulator by its step or leaves it, and every other effect leaves it or writes
+0.0. -/
theorem frameKeepsPhasesBelowOne : Obligations.FrameKeepsPhasesBelowOne := by
  refine ⟨fun c s h i => ?_, fun c s hinc h => ?_, fun s t hp h => ?_⟩
  · obtain ⟨hphase, hdetuned, hdelta, hdetunedDelta⟩ := h i
    rw [sampleFrame_voice]
    rcases voiceProcess_accumulators c s.srF i s.voices[i] with ⟨h1, h2, -, -⟩ | ⟨h1, h2, -, -⟩ <;> rw [h1, h2]
    · exact ⟨hphase, hdetuned⟩
    · exact ⟨unitPhase_frac_fadd hphase hdelta, unitPhase_frac_fadd hdetuned hdetunedDelta⟩
  · refine sampleFrame_forall_voices (fun v => fle f0 v.notePhase = true) c h fun i v hv => ?_
    rcases voiceProcess_accumulators c s.srF i v with ⟨-, -, heq, -⟩ | ⟨-, -, heq, -⟩ <;> rw [heq]
    · exact hv
    · exact fle_f0_fadd hv hinc
  · rcases accumulatorsOk_keptByEffects.step_or hp h with ht | ⟨w, rest, _, hs, hd, rfl⟩
    · exact .inl ht
    · exact .inr ⟨w, rest, hs, hd⟩

end Sys2Proof.Machine
end

section
/-! The delay lines stay sound (spec/20_memory.md R80, R82, R83). A frame writes the cell under the index and moves the
index around the line; a construction empties the line, which has a cell at every admitted rate: a delay time is below
one second, so that the length does not overflow and grows with the rate. -/

namespace Sys2Proof.Machine

/-! ### The length of a line (R221) -/

/-- A time below one second in samples: one rounding, and no overflow. -/
theorem fmul_rateF32_of_unitPhase {x : F32} (hx : unitPhase x = true) {u : BitVec 32} (hu : admittedRate u = true) :
    isFinite (fmul x (rateF32 u)) = true ∧ fmag (fmul x (rateF32 u)) = roundMag (funits x * u.toNat) 1 := by
  obtain ⟨hfin, hsign, hroom⟩ := funits_of_unitPhase hx
  have hone : 0 < unitsPerOne := Nat.two_pow_pos 149
  have hmul : fmul x (rateF32 u) = fround false (funits x * (u.toNat * unitsPerOne)) unitsPerOne := by
    rw [fmul_of_nonneg hfin (isFinite_rateF32 hu) hsign (fsign_rateF32 u), funits_rateF32 hu]
  have hle : funits x * (u.toNat * unitsPerOne) ≤ u.toNat * unitsPerOne * unitsPerOne := by
    rw [Nat.mul_comm]
    exact Nat.mul_le_mul_left _ (by omega)
  rw [hmul, fmag_fround]
  exact ⟨(fround_le_of_representable false hone (representable_rate hu) hle).1,
    le_antisymm (roundMag_mono hone Nat.one_pos (by rw [Nat.mul_one, Nat.mul_assoc]))
      (roundMag_mono Nat.one_pos hone (by rw [Nat.mul_one, Nat.mul_assoc]))⟩

theorem roundHalfAway_le {x y : F32} (hy : isFinite y = true) (h : fmag x ≤ fmag y) :
    roundHalfAway x ≤ roundHalfAway y :=
  Nat.div_le_div_right (Nat.add_le_add_right (Nat.mul_le_mul_left 2 (funits_le hy h)) _)

/-- The length of a line grows with the rate. -/
theorem delayLen_mono {ms : F32} (hms : unitPhase (fmul ms f0p001) = true) {u v : BitVec 32}
    (hu : admittedRate u = true) (hv : admittedRate v = true) (h : u.toNat ≤ v.toNat) :
    delayLen ms (rateF32 u) ≤ delayLen ms (rateF32 v) := by
  obtain ⟨-, hmagU⟩ := fmul_rateF32_of_unitPhase hms hu
  obtain ⟨hfin, hmagV⟩ := fmul_rateF32_of_unitPhase hms hv
  refine roundHalfAway_le hfin ?_
  rw [hmagU, hmagV]
  exact roundMag_mono Nat.one_pos Nat.one_pos (by simpa using Nat.mul_le_mul_left _ h)

/-- A line with a cell at the least rate has one at every admitted rate. -/
theorem delayLen_pos {ms : F32} (hms : unitPhase (fmul ms f0p001) = true) (hmin : 0 < delayLen ms (rateF32 8000#32))
    {u : BitVec 32} (hu : admittedRate u = true) : 0 < delayLen ms (rateF32 u) :=
  hmin.trans_le (delayLen_mono hms (by decide) hu (admittedRate_iff.1 hu).1)

theorem delayLen_combMs_pos {u : BitVec 32} (hu : admittedRate u = true) (k : Fin 4) :
    0 < delayLen combMs[k] (rateF32 u) := by
  have hlit : ∀ k : Fin 4, unitPhase (fmul combMs[k] f0p001) = true ∧ 0 < delayLen combMs[k] (rateF32 8000#32) := by
    decide +kernel
  obtain ⟨hms, hmin⟩ := hlit k
  exact delayLen_pos hms hmin hu

theorem delayLen_apMs_pos {u : BitVec 32} (hu : admittedRate u = true) (a : Fin 2) :
    0 < delayLen apMs[a] (rateF32 u) := by
  have hlit : ∀ a : Fin 2, unitPhase (fmul apMs[a] f0p001) = true ∧ 0 < delayLen apMs[a] (rateF32 8000#32) := by
    decide +kernel
  obtain ⟨hms, hmin⟩ := hlit a
  exact delayLen_pos hms hmin hu

/-! ### One line -/

theorem lineOk_iff {len idx : Nat} {m : DelayMem} :
    lineOk len idx m = true ↔ idx < len ∧ memWf m = true ∧ memBelow len m = true := by
  simp [lineOk, and_assoc]

theorem lineOk_empty {len : Nat} (h : 0 < len) : lineOk len 0 [] = true := lineOk_iff.2 ⟨h, rfl, rfl⟩

/-- Writing the cell under the index and moving the index on keeps a line sound (R224, R225). -/
theorem lineOk_advance {len idx : Nat} {m : DelayMem} (h : lineOk len idx m = true) (v : F32) :
    lineOk len (nextIdx idx len) (memWrite m idx v) = true := by
  obtain ⟨hidx, hwf, hbelow⟩ := lineOk_iff.1 h
  exact lineOk_iff.2
    ⟨Nat.mod_lt _ (Nat.zero_lt_of_lt hidx), memWf_memWrite hwf idx v, memBelow_memWrite hbelow hidx v⟩

/-! ### All six lines -/

theorem linesOk_construct {u : BitVec 32} (hu : admittedRate u = true) (c : Config) (s : State) :
    LinesOk (construct c u s) := by
  refine ⟨fun k => ?_, fun a => ?_⟩
  · simpa [builtComb] using lineOk_empty (delayLen_combMs_pos hu k)
  · simpa [builtAllpass] using lineOk_empty (delayLen_apMs_pos hu a)

theorem LinesOk.recomputeCombs {s : State} (h : LinesOk s) : LinesOk (recomputeCombs s) := by
  obtain ⟨hcombs, haps⟩ := h
  exact ⟨fun k => by simpa only [recomputeCombs_comb] using hcombs k, haps⟩

theorem LinesOk.sampleFrame {s : State} (h : LinesOk s) (c : Config) : LinesOk (sampleFrame c s) := by
  obtain ⟨hcombs, haps⟩ := h
  refine ⟨fun k => ?_, fun a => ?_⟩
  · rw [sampleFrame_comb]
    exact lineOk_advance (hcombs k) _
  · obtain ⟨y, hy⟩ := sampleFrame_ap c s a
    rw [hy]
    exact lineOk_advance (haps a) _

theorem linesOk_keptByEffects : KeptByEffects (fun _ => False) LinesOk where
  build _ s _ hu _ := linesOk_construct hu actual s
  frame _ _ _ h := h.sampleFrame actual
  room f s _ h := LinesOk.recomputeCombs (s := { s with rv := { s.rv with roomSize := clampUnit f } }) h
  damp f s _ h := LinesOk.recomputeCombs (s := { s with rv := { s.rv with damping := clampUnit f } }) h

/-- Settles O50: a frame advances each line, a construction empties it, and no other effect writes one. -/
theorem stepKeepsDelayLines : Obligations.StepKeepsDelayLines := fun _ _ hp h => linesOk_keptByEffects.step hp h

/-! ### SAMPLE outside a line -/

theorem linesInRange_iff {s : State} :
    linesInRange s = true ↔
      (∀ k : Fin 4, s.combs[k].idx < s.combs[k].len) ∧ ∀ a : Fin 2, s.aps[a].idx < s.aps[a].len :=
  decide_eq_true_iff

theorem exec_sample_of_outside {s : State} (hc : s.cfg = true) (h : linesInRange s = false) :
    exec .sample s = .fault .delayLineIndex := by
  simp [exec, execSample, withUnits, hc, h]

/-- Settles O47: the line whose index names no cell fails SAMPLE's check of all six. -/
theorem sampleFaultsOutsideLine : Obligations.SampleFaultsOutsideLine := by
  intro s hc hout
  refine exec_sample_of_outside hc (Bool.eq_false_iff.2 fun hin => ?_)
  obtain ⟨hcombs, haps⟩ := linesInRange_iff.1 hin
  rcases hout with ⟨k, hk⟩ | ⟨a, ha⟩
  · exact (hcombs k).not_ge hk
  · exact (haps a).not_ge ha

end Sys2Proof.Machine
end

section
/-! The byte form of a command word and of the two read ports (spec/20_memory.md R85, R86): a byte put back at its place
holds the word's bits there and no other, and the bytes' places cover the word. -/

namespace Sys2Proof.Machine

/-! ### Bytes at their places -/

/-- A byte of a word, put back at its place. -/
theorem getLsbD_byte_at {n : Nat} (x : BitVec n) (lo i : Nat) :
    ((x.extractLsb' lo 8).setWidth n <<< lo).getLsbD i = (decide (lo ≤ i ∧ i < lo + 8) && x.getLsbD i) := by
  rcases Nat.lt_or_ge i n with hi | hi
  · by_cases hlo : lo ≤ i
    · have hback : lo + (i - lo) = i := by omega
      have hin : decide (i - lo < 8) = decide (i < lo + 8) := by simp; omega
      simp [hi, hlo, hback, hin, Nat.not_lt.2 hlo]
    · simp [hlo, Nat.not_le.1 hlo]
  · simp [BitVec.getLsbD_of_ge _ _ hi]

/-- The eight bytes of a word, each at its place, are the word (R85). -/
theorem wordOfBytes_bytes (w : Word) :
    wordOfBytes (w.extractLsb' 0 8) (w.extractLsb' 8 8) (w.extractLsb' 16 8) (w.extractLsb' 24 8)
      (w.extractLsb' 32 8) (w.extractLsb' 40 8) (w.extractLsb' 48 8) (w.extractLsb' 56 8) = w := by
  refine BitVec.eq_of_getLsbD_eq fun i hi => ?_
  simp only [wordOfBytes, placeAt, BitVec.getLsbD_or, getLsbD_byte_at, ← Bool.and_or_distrib_right]
  rw [Bool.and_eq_right_iff_imp]
  intro _
  simp only [Bool.or_eq_true, decide_eq_true_eq]
  omega

/-- The four bytes of a port's word give the word back (R85). -/
theorem portWord_portBytes (x : BitVec 32) : portWord (portBytes x) = some x := by
  refine congrArg some (BitVec.eq_of_getLsbD_eq fun i hi => ?_)
  rw [← BitVec.shiftLeft_zero ((x.extractLsb' 0 8).setWidth 32)]
  simp only [BitVec.getLsbD_or, getLsbD_byte_at, ← Bool.and_or_distrib_right]
  rw [Bool.and_eq_right_iff_imp]
  intro _
  simp only [Bool.or_eq_true, decide_eq_true_eq]
  omega

/-- Bit `j` of byte `k` is bit `8 k + j` of the port's word (R85). -/
theorem getLsbD_portBytes (x : BitVec 32) (k : Fin 4) (j : Fin 8) :
    ((portBytes x).getD k.val 0#8).getLsbD j.val = x.getLsbD (8 * k.val + j.val) := by
  have hbyte : (portBytes x).getD k.val 0#8 = x.extractLsb' (8 * k.val) 8 := by fin_cases k <;> rfl
  rw [hbyte, BitVec.getLsbD_extractLsb', decide_eq_true j.isLt, Bool.true_and]

/-! ### The command at the head of a run of bytes -/

/-- The bytes of a word are decoded as the word, and those after them are left (R86, R100). -/
theorem decodeBytes_wordBytes_append (w : Word) (rest : List Byte) :
    decodeBytes (wordBytes w ++ rest) = (decode w).map fun i => (i, rest) := by
  simp only [wordBytes, List.cons_append, List.nil_append, decodeBytes, wordOfBytes_bytes]
  cases decode w <;> rfl

/-- Settles O5: the byte form of a word is undone by the reader, for commands and for both ports. -/
theorem bytesDecodeAsTheirWord : Obligations.BytesDecodeAsTheirWord := by
  refine ⟨fun w rest => ⟨fun i hi => ?_, fun e he => ?_⟩, fun s k j => ?_, fun s => ?_⟩
  · rw [decodeBytes_wordBytes_append, hi]
    rfl
  · rw [decodeBytes_wordBytes_append, he]
    rfl
  · exact ⟨getLsbD_portBytes (readOut s) k j, getLsbD_portBytes (readStatus s) k j⟩
  · exact ⟨portWord_portBytes (readOut s), portWord_portBytes (readStatus s)⟩

end Sys2Proof.Machine
end

section
/-! Decoder and encoder undo each other (spec/30_encoding.md R100 to R120). A row's mask splits a word into fixed bits
and operand fields: each field of an encoded command reads back as the operand put there, and the fields of a word, put
back at their places, are the bits that the mask leaves open. -/

namespace Sys2Proof.Machine

/-! ### Fields at their places (R101 to R106) -/

theorem getLsbD_placeAt {n : Nat} (lo : Nat) (x : BitVec n) {j : Nat} (hj : j < 64) :
    (placeAt n lo x).getLsbD j = (decide (lo ≤ j) && x.getLsbD (j - lo)) := by
  by_cases hlo : lo ≤ j
  · simp [placeAt, hj, hlo, Nat.not_lt.2 hlo]
  · simp [placeAt, hlo, Nat.not_le.1 hlo]

/-- A field of a word, put back at its place, holds the word's bits there and no other. -/
theorem getLsbD_placeAt_extract (w : Word) (n lo : Nat) {j : Nat} (hj : j < 64) :
    (placeAt n lo (w.extractLsb' lo n)).getLsbD j = (decide (lo ≤ j ∧ j < lo + n) && w.getLsbD j) := by
  rw [getLsbD_placeAt lo _ hj, BitVec.getLsbD_extractLsb']
  by_cases hlo : lo ≤ j
  · have hback : lo + (j - lo) = j := by omega
    have hin : decide (j - lo < n) = decide (j < lo + n) := by simp; omega
    simp [hlo, hback, hin]
  · simp [hlo]

/-! ### The fields of an encoded command -/

@[simp] theorem extractLsb'_placeAt_same {n lo : Nat} (x : BitVec n) (h : lo + n ≤ 64) :
    (placeAt n lo x).extractLsb' lo n = x := by
  refine BitVec.eq_of_getLsbD_eq fun i hi => ?_
  simp [getLsbD_placeAt lo x (by omega : lo + i < 64), hi]

/-- Nothing of one field lies in another that ends below it or begins above it. -/
@[simp] theorem extractLsb'_placeAt_disjoint {n lo n' lo' : Nat} (x : BitVec n) (h' : lo' + n' ≤ 64)
    (h : lo' + n' ≤ lo ∨ lo + n ≤ lo') : (placeAt n lo x).extractLsb' lo' n' = 0#n' := by
  refine BitVec.eq_of_getLsbD_eq fun i hi => ?_
  rw [BitVec.getLsbD_extractLsb', getLsbD_placeAt lo x (by omega : lo' + i < 64), BitVec.getLsbD_zero]
  rcases h with hbelow | habove
  · simp [Nat.not_le.2 (by omega : lo' + i < lo)]
  · simp [BitVec.getLsbD_of_ge x (lo' + i - lo) (by omega)]

theorem chField_encodeN (op : Op) (ch : Channel) (note : Note) (vel : Velocity) :
    chField (encodeN op ch note vel) = ch := by
  simp [chField, encodeN, Op.pattern, BitVec.extractLsb'_or]

theorem noteField_encodeN (op : Op) (ch : Channel) (note : Note) (vel : Velocity) :
    noteField (encodeN op ch note vel) = note := by
  simp [noteField, encodeN, Op.pattern, BitVec.extractLsb'_or]

theorem velField_encodeN (op : Op) (ch : Channel) (note : Note) (vel : Velocity) :
    velField (encodeN op ch note vel) = vel := by
  simp [velField, encodeN, Op.pattern, BitVec.extractLsb'_or]

theorem immField_encodeImm (op : Op) (imm : BitVec 32) : immField (encodeImm op imm) = imm := by
  simp [immField, encodeImm, Op.pattern, BitVec.extractLsb'_or]

/-! ### The bits that a mask leaves open -/

theorem placeAt_fields_n (w : Word) :
    placeAt 4 48 (chField w) ||| placeAt 7 40 (noteField w) ||| placeAt 7 32 (velField w) =
      w &&& ~~~Format.mask .n := by
  have hmask : ∀ j < 64, (~~~Format.mask .n).getLsbD j =
      (decide (48 ≤ j ∧ j < 48 + 4) || decide (40 ≤ j ∧ j < 40 + 7) || decide (32 ≤ j ∧ j < 32 + 7)) := by decide
  refine BitVec.eq_of_getLsbD_eq fun j hj => ?_
  rw [BitVec.getLsbD_and, hmask j hj, BitVec.getLsbD_or, BitVec.getLsbD_or, chField, noteField, velField,
    getLsbD_placeAt_extract w _ _ hj, getLsbD_placeAt_extract w _ _ hj, getLsbD_placeAt_extract w _ _ hj,
    ← Bool.and_or_distrib_right, ← Bool.and_or_distrib_right, Bool.and_comm]

theorem placeAt_immField (w : Word) : placeAt 32 0 (immField w) = w &&& ~~~Format.mask .f := by
  have hmask : ∀ j < 64, (~~~Format.mask .f).getLsbD j = decide (0 ≤ j ∧ j < 0 + 32) := by decide
  refine BitVec.eq_of_getLsbD_eq fun j hj => ?_
  rw [BitVec.getLsbD_and, hmask j hj, immField, getLsbD_placeAt_extract w _ _ hj, Bool.and_comm]

/-- A word is its fixed bits and its open bits, whatever the mask. -/
theorem masked_or_open (w m : Word) : (w &&& m) ||| (w &&& ~~~m) = w := by
  rw [← BitVec.and_or_distrib_left, BitVec.or_not_self, BitVec.and_allOnes]

theorem encodeN_fields {op : Op} {w : Word} (h : w &&& Format.mask .n = op.pattern) :
    encodeN op (chField w) (noteField w) (velField w) = w := by
  rw [encodeN, BitVec.or_assoc, BitVec.or_assoc, ← BitVec.or_assoc (placeAt 4 48 _), placeAt_fields_n, ← h,
    masked_or_open]

theorem encodeImm_immField {op : Op} {w : Word} (h : w &&& Format.mask .f = op.pattern) :
    encodeImm op (immField w) = w := by
  rw [encodeImm, placeAt_immField, ← h, masked_or_open]

theorem encodeZ_of_masked {op : Op} {w : Word} (h : w &&& Format.mask .z = op.pattern) : encodeZ op = w := by
  rw [encodeZ, ← h]
  exact BitVec.and_allOnes

/-! ### Rows and their commands -/

theorem encodedFixedBits (i : Instr) : Laws.EncodedFixedBits.Statement i := by
  cases i with
  | nop => exact Laws.EncodedFixedBits.nop
  | noteOn ch note vel => exact Laws.EncodedFixedBits.noteOn ch note vel
  | noteOff ch note vel => exact Laws.EncodedFixedBits.noteOff ch note vel
  | setRoom f => exact Laws.EncodedFixedBits.setRoom f
  | setDamp f => exact Laws.EncodedFixedBits.setDamp f
  | setWet f => exact Laws.EncodedFixedBits.setWet f
  | setDry f => exact Laws.EncodedFixedBits.setDry f
  | setWidth f => exact Laws.EncodedFixedBits.setWidth f
  | setThresh f => exact Laws.EncodedFixedBits.setThresh f
  | setAttack f => exact Laws.EncodedFixedBits.setAttack f
  | setRelease f => exact Laws.EncodedFixedBits.setRelease f
  | setMakeup f => exact Laws.EncodedFixedBits.setMakeup f
  | setRate u => exact Laws.EncodedFixedBits.setRate u
  | clrErr => exact Laws.EncodedFixedBits.clrErr
  | sample => exact Laws.EncodedFixedBits.sample

/-- The operands read from a command's word are the command's (R106). -/
theorem readOperands_encode (i : Instr) : readOperands i.op (encode i) = i := by
  cases i with
  | nop | clrErr | sample => rfl
  | noteOn | noteOff =>
    simp only [Instr.op, encode, readOperands, chField_encodeN, noteField_encodeN, velField_encodeN]
  | setRoom | setDamp | setWet | setDry | setWidth | setThresh | setAttack | setRelease | setMakeup | setRate =>
    simp only [Instr.op, encode, readOperands, immField_encodeImm]

/-- A word with a row's fixed bits is the word of the row's command with its operands (R105, R106). -/
theorem encode_readOperands {op : Op} {w : Word} (h : w &&& op.format.mask = op.pattern) :
    encode (readOperands op w) = w := by
  cases op with
  | nop | clrErr | sample => exact encodeZ_of_masked h
  | noteOn | noteOff => exact encodeN_fields h
  | setRoom | setDamp | setWet | setDry | setWidth | setThresh | setAttack | setRelease | setMakeup | setRate =>
    exact encodeImm_immField h

/-! ### The decoder -/

/-- A word of an assigned opcode: its reserved fields decide (R110). -/
theorem decode_of_opcField {w : Word} {op : Op} (h : opcField w = op.code) :
    decode w = if w &&& op.format.mask = op.pattern then .ok (readOperands op w) else .error (.reservedField op) := by
  rw [decode, h, opOfCode_code]

theorem opOfCode_eq_none {code : BitVec 8} (h : ∀ op : Op, code ≠ op.code) : opOfCode code = none := by
  cases hrow : opOfCode code with
  | none => rfl
  | some op => exact absurd (code_of_opOfCode hrow).symm (h op)

/-- A word whose opcode is no row's (R112). -/
theorem decode_of_unassigned {w : Word} (h : ∀ op : Op, opcField w ≠ op.code) :
    decode w = .error (.unassignedOpcode (opcField w)) := by
  rw [decode, opOfCode_eq_none h]

/-- Settles O3: the word of a command has its row's fixed bits, and its fields are the operands. -/
theorem decodeAfterEncode : Obligations.DecodeAfterEncode := by
  intro i
  obtain ⟨hcode, hfixed⟩ := encodedFixedBits i
  rw [decode_of_opcField hcode, if_pos hfixed, readOperands_encode]

/-- Settles O4: only a word with its row's fixed bits decodes, and the mask leaves nothing open but the operands. -/
theorem encodeAfterDecode : Obligations.EncodeAfterDecode := by
  intro w i hdec
  by_cases hassigned : ∃ op : Op, opcField w = op.code
  · obtain ⟨op, hcode⟩ := hassigned
    rw [decode_of_opcField hcode] at hdec
    split_ifs at hdec with hfixed
    obtain rfl : readOperands op w = i := Except.ok.inj hdec
    exact encode_readOperands hfixed
  · rw [decode_of_unassigned fun op hcode => hassigned ⟨op, hcode⟩] at hdec
    cases hdec

theorem decode_eq_ok_iff {w : Word} {i : Instr} : decode w = .ok i ↔ encode i = w :=
  ⟨encodeAfterDecode w i, fun h => h ▸ decodeAfterEncode i⟩

/-- Settles O6: the sixteen words are the words of their commands, and the two others fail the two checks of R110. -/
theorem workedEncodingsDecode : Obligations.WorkedEncodingsDecode := by
  unfold Obligations.WorkedEncodingsDecode
  simp only [decode_eq_ok_iff]
  decide

end Sys2Proof.Machine
end

section
/-! What a word on the command port does (spec/30_encoding.md R110 to R114): it is taken and run as the command it
decodes to, or it raises ErrIllegal; a setter's operand is a NaN and raises ErrNaN, or is clamped into the setter's
register. -/

namespace Sys2Proof.Machine

/-! ### Running a word (R110, R112) -/

theorem runWord_of_ok {w : Word} {i : Instr} (h : decode w = .ok i) (s : State) : runWord w s = exec i s := by
  rw [runWord, h]

theorem runWord_of_error {w : Word} {e : DecodeError} (h : decode w = .error e) (s : State) :
    runWord w s = .next { s with errIllegal := true } := by
  rw [runWord, h]
  rfl

theorem step_of_cons {s : State} {w : Word} {rest : List Word} (h : s.stream = w :: rest) :
    step s = runWord w { s with stream := rest } := by
  rw [step, fetchWord, h]

theorem step_of_nil {s : State} (h : s.stream = []) : step s = .next s := by
  rw [step, fetchWord, h]

/-- All 64 bits of a word on the port are the word (R100; log 13). -/
theorem tableWord_toNat (w : Word) : tableWord 64 w.toNat = w := by
  rw [tableWord, Nat.mod_eq_of_lt w.isLt, BitVec.ofNat_toNat, BitVec.setWidth_eq]

/-- Settles O7: a step takes the head of the port and runs it, and what the host placed there is the head. -/
theorem stepRunsDecodedCommand : Obligations.StepRunsDecodedCommand := by
  refine ⟨fun s w rest i hs hdec => ?_, fun s i => ?_, fun s => step_of_nil⟩
  · rw [step_of_cons hs, runWord_of_ok hdec]
  · rw [step_of_cons (withFetchWord_stream s _ _), tableWord_toNat, runWord_of_ok (decodeAfterEncode i)]
    rfl

/-! ### Illegal words (R112) -/

theorem malformedOnlyRaises (op : Op) : MalformedOnlyRaises op := by
  intro w s hcode hfixed
  have hdec := decode_of_opcField hcode
  rw [if_neg hfixed] at hdec
  exact runWord_of_error hdec s

/-- Settles O8: a word whose opcode or reserved field is wrong decodes to an error, and every such error raises
ErrIllegal. -/
theorem illegalWordsOnlyRaise : Obligations.IllegalWordsOnlyRaise :=
  ⟨by decide +kernel, fun _ s hcode => runWord_of_error (decode_of_unassigned hcode) s, malformedOnlyRaises⟩

/-! ### Operands of the setters (R114) -/

/-- The magnitudes above infinity's are those with all exponent bits set and a nonzero fraction (R13, R114). -/
theorem isNaN_iff_fields (f : F32) :
    isNaN f = true ↔ f.extractLsb' 23 8 = 0xFF#8 ∧ f.extractLsb' 0 23 ≠ 0#23 := by
  have hexp : (f.extractLsb' 23 8).toNat = f.toNat / 8388608 % 256 := by
    simp [BitVec.extractLsb'_toNat, Nat.shiftRight_eq_div_pow]
  have hfrac : (f.extractLsb' 0 23).toNat = f.toNat % 8388608 := by simp [BitVec.extractLsb'_toNat]
  rw [isNaN, fmag, decide_eq_true_iff, ne_eq, BitVec.toNat_eq, BitVec.toNat_eq, hexp, hfrac, BitVec.toNat_ofNat,
    BitVec.toNat_ofNat]
  omega

theorem withF32_of_nan {f : F32} {s : State} (hc : s.cfg = true) (hn : isNaN f = true) (run : State → State) :
    withF32 f s run = .next { s with errNan := true } := by
  rw [withF32, withUnits, if_pos hc, if_pos hn]
  rfl

theorem withF32_of_number {f : F32} {s : State} (hc : s.cfg = true) (hn : isNaN f = false) (run : State → State) :
    withF32 f s run = .next (run s) := by
  simp [withF32, withUnits, hc, hn]

/-- Every setter is the checks of R110 and then an effect that writes its own register with the clamped operand and
leaves ERR_NAN alone (R231 to R235, R270 to R273). -/
theorem exec_setter {i : Instr} {f : F32} (h : setterOperand i = some f) :
    ∃ run r, (∀ s, exec i s = withF32 f s run) ∧ setterRange actual i = some r ∧
      ∀ s, (run s).errNan = s.errNan ∧ setterRegister (run s) i = some (fclamp f r.1 r.2) := by
  cases i with
  | nop | noteOn | noteOff | setRate | clrErr | sample => cases h
  | setRoom | setDamp | setWet | setDry | setWidth | setThresh | setAttack | setRelease | setMakeup =>
    obtain rfl := Option.some.inj h
    exact ⟨_, _, fun _ => rfl, rfl, fun _ => ⟨rfl, rfl⟩⟩

/-- Settles O10: the NaN check stands before the setter's effect. -/
theorem nanOperandsOnlyRaise : Obligations.NanOperandsOnlyRaise := by
  refine ⟨isNaN_iff_fields, fun i f s hop hc hn => ?_, fun i f s hop hc hn => ?_⟩
  · obtain ⟨run, _, hexec, _⟩ := exec_setter hop
    rw [hexec, withF32_of_nan hc hn]
  · obtain ⟨run, r, hexec, hrange, heffect⟩ := exec_setter hop
    obtain ⟨hflag, hreg⟩ := heffect s
    exact ⟨run s, r, by rw [hexec, withF32_of_number hc hn], hflag, hrange, hreg⟩

end Sys2Proof.Machine
end

section
/-! Envelope (spec/40_envelope.md R130 to R141): the update of each state, with and without a rate, and from these
the graph of the states. -/

namespace Sys2Proof.Machine

/-! ### The arms (R136 to R140) -/

section
variable {e : Envelope} {r : F32}

theorem envAdvance_of_idle (hs : e.state = .idle) : envAdvance e = e := by
  rw [envAdvance, hs]

theorem envAdvance_of_attack_instant (hs : e.state = .attack) (hr : e.attackRate = none) :
    envAdvance e = { e with level := f1, state := .decay } := by
  simp only [envAdvance, hs, envAttack, hr]

theorem envAdvance_of_attack_rate (hs : e.state = .attack) (hr : e.attackRate = some r) :
    envAdvance e =
      if fge (fadd e.level r) f1 = true then { e with level := f1, state := .decay }
      else { e with level := fadd e.level r } := by
  simp only [envAdvance, hs, envAttack, hr]

theorem envAdvance_of_decay_instant (hs : e.state = .decay) (hr : e.decayRate = none) :
    envAdvance e = { e with level := e.sustainLevel, state := .sustain } := by
  simp only [envAdvance, hs, envDecay, hr]

theorem envAdvance_of_decay_rate (hs : e.state = .decay) (hr : e.decayRate = some r) :
    envAdvance e =
      { e with level := fsub e.level r,
               state := if fle (fsub e.level r) e.sustainLevel = true then .sustain else .decay } := by
  simp only [envAdvance, hs, envDecay, hr]
  split_ifs
  · rfl
  · rw [← hs]

theorem envAdvance_of_sustain (hs : e.state = .sustain) :
    envAdvance e =
      { e with level := fsub e.level e.sustainDecayRate,
               state := if fle (fsub e.level e.sustainDecayRate) f0 = true then .idle else .sustain } := by
  simp only [envAdvance, hs, envSustain]
  split_ifs
  · rfl
  · rw [← hs]

theorem envAdvance_of_release_instant (hs : e.state = .release) (hr : e.releaseRate = none) :
    envAdvance e = { e with level := f0, state := .idle } := by
  simp only [envAdvance, hs, envReleaseStep, hr]

theorem envAdvance_of_release_rate (hs : e.state = .release) (hr : e.releaseRate = some r) :
    envAdvance e =
      { e with level := releaseStepLevel r e.level,
               state := if fle (releaseStepLevel r e.level) f0p0001 = true then .idle else .release } := by
  simp only [envAdvance, hs, envReleaseStep, hr]
  split_ifs
  · rfl
  · rw [← hs]

end

/-- Settles O22: the arms, each by its equation; the output is taken from the advanced envelope, whose velocity level
is the old one. -/
theorem envelopeArms : Obligations.EnvelopeArms := fun e =>
  ⟨congrArg (fmul _) (envAdvance_velocityLevel e), envAdvance_of_idle,
    envAdvance_of_attack_instant, fun _ hs hr => envAdvance_of_attack_rate hs hr,
    envAdvance_of_decay_instant, fun _ hs hr => envAdvance_of_decay_rate hs hr,
    envAdvance_of_sustain,
    envAdvance_of_release_instant, fun _ hs hr => envAdvance_of_release_rate hs hr⟩

/-! ### The graph of the states (R131) -/

section
variable {e : Envelope}

theorem envAdvance_state_of_attack (hs : e.state = .attack) :
    (envAdvance e).state = .attack ∨
      ((envAdvance e).state = .decay ∧ (envAdvance e).level = f1 ∧
        (e.attackRate = none ∨ ∃ r, e.attackRate = some r ∧ fge (fadd e.level r) f1 = true)) := by
  cases hr : e.attackRate with
  | none => exact .inr (by simp [envAdvance_of_attack_instant hs hr])
  | some r =>
    rw [envAdvance_of_attack_rate hs hr]
    split_ifs with hfull
    · exact .inr ⟨rfl, rfl, .inr ⟨r, rfl, hfull⟩⟩
    · exact .inl hs

theorem envAdvance_state_of_decay (hs : e.state = .decay) :
    (envAdvance e).state = .decay ∨
      ((envAdvance e).state = .sustain ∧
        (e.decayRate = none ∨ fle (envAdvance e).level e.sustainLevel = true)) := by
  cases hr : e.decayRate with
  | none => exact .inr (by simp [envAdvance_of_decay_instant hs hr])
  | some r =>
    rw [envAdvance_of_decay_rate hs hr]
    by_cases hlow : fle (fsub e.level r) e.sustainLevel = true
    · exact .inr ⟨if_pos hlow, .inr hlow⟩
    · exact .inl (if_neg hlow)

theorem envAdvance_state_of_sustain (hs : e.state = .sustain) :
    (envAdvance e).state = .sustain ∨
      ((envAdvance e).state = .idle ∧ fle (envAdvance e).level f0 = true) := by
  rw [envAdvance_of_sustain hs]
  by_cases hlow : fle (fsub e.level e.sustainDecayRate) f0 = true
  · exact .inr ⟨if_pos hlow, hlow⟩
  · exact .inl (if_neg hlow)

theorem envAdvance_state_of_release (hs : e.state = .release) :
    (envAdvance e).state = .release ∨
      ((envAdvance e).state = .idle ∧
        (e.releaseRate = none ∨ fle (envAdvance e).level f0p0001 = true)) := by
  cases hr : e.releaseRate with
  | none => exact .inr (by simp [envAdvance_of_release_instant hs hr])
  | some r =>
    rw [envAdvance_of_release_rate hs hr]
    by_cases hlow : fle (releaseStepLevel r e.level) f0p0001 = true
    · exact .inr ⟨if_pos hlow, .inr hlow⟩
    · exact .inl (if_neg hlow)

end

/-- Settles O21: an envelope leaves each state in its own one way, so its state before the update names the
transition. -/
theorem envelopeStateGraph : Obligations.EnvelopeStateGraph := by
  intro e
  refine ⟨rfl, rfl, ?_⟩
  simp only [envProcess]
  cases hs : e.state with
  | idle => exact .inl (by rw [envAdvance_of_idle hs, hs])
  | attack => exact (envAdvance_state_of_attack hs).imp_right fun h => .inl ⟨rfl, h⟩
  | decay => exact (envAdvance_state_of_decay hs).imp_right fun h => .inr (.inl ⟨rfl, h⟩)
  | sustain => exact (envAdvance_state_of_sustain hs).imp_right fun h => .inr (.inr (.inl ⟨rfl, h⟩))
  | release => exact (envAdvance_state_of_release hs).imp_right fun h => .inr (.inr (.inr ⟨rfl, h⟩))

end Sys2Proof.Machine
end

section
/-! Inharmonic multipliers (spec/41_oscillator.md R163, R175). Each rounding of the multiplier is monotone in the magnitude
of its operand, so the multiplier is monotone in the rounded product `B * (k*k)`, and its values at the two patterns next
to the threshold decide the rest. -/

namespace Sys2Proof.Machine

/-! ### Numbers with a clear sign bit -/

/-- No NaN and no sign bit: +0.0, the positive values, +∞. On these the order of values is the order of magnitudes. -/
structure ClearSign (x : F32) : Prop where
  sign : fsign x = false
  mag_le : fmag x ≤ 0x7F800000

theorem ClearSign.isNaN {x : F32} (h : ClearSign x) : isNaN x = false := by
  simpa [Machine.isNaN] using h.mag_le

theorem clearSign_fround (n d : Nat) : ClearSign (fround false n d) :=
  ⟨fsign_fround _ _ _, by rw [fmag_fround]; exact roundMag_le n d⟩

theorem clearSign_of_pos {x : F32} (h : flt f0 x = true) : ClearSign x := by
  simp only [flt, Bool.and_eq_true, Bool.not_eq_true', decide_eq_true_eq] at h
  obtain ⟨⟨-, hnan⟩, hlt⟩ := h
  have h0 : forder f0 = 0 := by decide
  refine ⟨?_, by simpa [isNaN] using hnan⟩
  by_contra hs
  rw [h0, forder, if_pos (by simpa using hs)] at hlt
  omega

theorem fpack_fInf : fpack false 0x7F800000 = fInf := rfl

theorem ClearSign.finite_or_fInf {x : F32} (h : ClearSign x) : isFinite x = true ∨ x = fInf := by
  obtain ⟨hs, hm⟩ := h
  rcases hm.lt_or_eq with hlt | heq
  · exact .inl (by simpa [isFinite] using hlt)
  · exact .inr (by rw [← fpack_fields x, hs, heq, fpack_fInf])

theorem fle_iff_fmag {x y : F32} (hx : ClearSign x) (hy : ClearSign y) : fle x y = true ↔ fmag x ≤ fmag y := by
  simp [fle, forder, hx.isNaN, hy.isNaN, hx.sign, hy.sign]

theorem flt_iff_fmag {x y : F32} (hx : ClearSign x) (hy : ClearSign y) : flt x y = true ↔ fmag x < fmag y := by
  simp [flt, forder, hx.isNaN, hy.isNaN, hx.sign, hy.sign]

/-! ### Monotone operations -/

/-- Numbers with a clear sign bit go to such numbers, in the same order. -/
structure MonotoneOnClear (g : F32 → F32) : Prop where
  clear : ∀ {x}, ClearSign x → ClearSign (g x)
  mono : ∀ {x y}, ClearSign x → ClearSign y → fmag x ≤ fmag y → fmag (g x) ≤ fmag (g y)

theorem MonotoneOnClear.comp {g g' : F32 → F32} (hg : MonotoneOnClear g) (hg' : MonotoneOnClear g') :
    MonotoneOnClear (fun x => g (g' x)) where
  clear hx := hg.clear (hg'.clear hx)
  mono hx hy h := hg.mono (hg'.clear hx) (hg'.clear hy) (hg'.mono hx hy h)

/-- An operation that rounds an exact value which grows with the units of its operand, and that keeps +∞, is monotone. -/
theorem monotoneOnClear_of_rounded {g : F32 → F32} {value : Nat → Nat} {d : Nat} (hd : 0 < d) (hvalue : Monotone value)
    (hfin : ∀ x, isFinite x = true → fsign x = false → g x = fround false (value (funits x)) d)
    (hinf : g fInf = fInf) : MonotoneOnClear g := by
  have hclear : ∀ x, ClearSign x → ClearSign (g x) := by
    intro x hx
    rcases hx.finite_or_fInf with hf | rfl
    · rw [hfin x hf hx.sign]
      exact clearSign_fround _ _
    · rwa [hinf]
  refine ⟨hclear _, fun {x y} hx hy h => ?_⟩
  rcases hy.finite_or_fInf with hyf | rfl
  · have hxf : isFinite x = true := by
      rw [isFinite, decide_eq_true_eq] at hyf ⊢
      omega
    rw [hfin x hxf hx.sign, hfin y hyf hy.sign, fmag_fround, fmag_fround]
    exact roundMag_mono hd hd (Nat.mul_le_mul_right d (hvalue (funits_le hyf h)))
  · rw [hinf]
    exact (hclear x hx).mag_le

theorem fInf_fields : isNaN fInf = false ∧ isInf fInf = true ∧ fsign fInf = false ∧ fmag fInf ≠ 0 := by decide

/-- Adding 1.0 (R14). -/
theorem monotoneOnClear_fadd_f1 : MonotoneOnClear (fadd f1) :=
  monotoneOnClear_of_rounded (value := (funits f1 + ·)) Nat.one_pos (fun _ _ h => Nat.add_le_add_left h _)
    (fun _ hx sx => fadd_of_nonneg (by decide) hx (by decide) sx) (by decide)

/-- Multiplying by a finite factor that is not zero (R14). -/
theorem monotoneOnClear_fmul {a : F32} (ha : isFinite a = true) (sa : fsign a = false) (h0 : fmag a ≠ 0) :
    MonotoneOnClear (fmul a) := by
  refine monotoneOnClear_of_rounded (value := (funits a * ·)) (Nat.two_pow_pos 149)
    (fun _ _ h => Nat.mul_le_mul_left _ h) (fun _ hx sx => fmul_of_nonneg ha hx sa sx) ?_
  simp [fmul, isNaN_of_isFinite ha, sa, h0, fInf_fields, fpack_fInf]

/-- A product of two numbers with a clear sign bit, the right one finite and not zero. -/
theorem clearSign_fmul {a b : F32} (ha : ClearSign a) (hb : isFinite b = true) (sb : fsign b = false)
    (h0 : fmag b ≠ 0) : ClearSign (fmul a b) := by
  rcases ha.finite_or_fInf with haf | rfl
  · rw [fmul_of_nonneg haf hb ha.sign sb]
    exact clearSign_fround _ _
  · have hprod : fmul fInf b = fInf := by
      simp [fmul, isNaN_of_isFinite hb, sb, h0, fInf_fields, fpack_fInf]
    rwa [hprod]

/-! ### The square root (R14) -/

/-- The root bit by bit is the integer square root, if the bits from `k` up are right and none is left above. -/
theorem isqrtFrom_eq_sqrt {n k r : Nat} (hlow : r * r ≤ n) (hhigh : n < (r + 2 ^ k) * (r + 2 ^ k)) :
    isqrtFrom n k r = n.sqrt := by
  induction k generalizing r with
  | zero => exact Nat.eq_sqrt.2 ⟨hlow, hhigh⟩
  | succ k ih =>
    have hsplit : r + 2 ^ (k + 1) = r + 2 ^ k + 2 ^ k := by ring
    rw [isqrtFrom]
    split_ifs with hbit
    · exact ih hbit (by rwa [← hsplit])
    · exact ih hlow (by omega)

theorem isqrt_eq_sqrt {n : Nat} (h : n < 2 ^ 440) : isqrt n = n.sqrt :=
  isqrtFrom_eq_sqrt (Nat.zero_le n) (h.trans_eq (by decide +kernel))

/-- Twice the root, and one more if a part of the root is left below it. -/
def stickyRoot (n : Nat) : Nat := 2 * n.sqrt + if n.sqrt * n.sqrt = n then 0 else 1

theorem stickyRoot_mono : Monotone stickyRoot := by
  intro m n h
  unfold stickyRoot
  rcases (Nat.sqrt_le_sqrt h).lt_or_eq with hlt | heq
  · split_ifs <;> omega
  · have hm := Nat.sqrt_le m
    rw [heq] at hm ⊢
    split_ifs <;> omega

theorem funits_lt_of_isFinite {x : F32} (h : isFinite x = true) : funits x < 2 ^ 24 * 2 ^ 253 := by
  obtain ⟨f, j, hf, hj, hx⟩ := representable_funits h
  calc funits x = f * 2 ^ j := hx
    _ < 2 ^ 24 * 2 ^ j := Nat.mul_lt_mul_of_pos_right hf (Nat.two_pow_pos j)
    _ ≤ 2 ^ 24 * 2 ^ 253 := Nat.mul_le_mul_left _ (Nat.pow_le_pow_right (by decide) hj)

theorem sqrtFinite_eq_stickyRoot {x : F32} (h : isFinite x = true) :
    sqrtFinite x = fround false (stickyRoot (16 * (funits x * unitsPerOne))) 8 := by
  have hlt := funits_lt_of_isFinite h
  rw [sqrtFinite, isqrt_eq_sqrt (by unfold unitsPerOne; omega)]
  rfl

theorem monotoneOnClear_fsqrt : MonotoneOnClear fsqrt := by
  refine monotoneOnClear_of_rounded (value := fun u => stickyRoot (16 * (u * unitsPerOne))) (d := 8) (by decide)
    (fun _ _ h => stickyRoot_mono (Nat.mul_le_mul_left _ (Nat.mul_le_mul_right _ h))) (fun x hx sx => ?_) (by decide)
  rcases Nat.eq_zero_or_pos (fmag x) with h0 | hpos
  · obtain rfl : x = f0 := by
      rw [← fpack_fields x, sx, h0]
      rfl
    decide +kernel
  · rw [fsqrt, isNaN_of_isFinite hx, sx, isInf_of_isFinite hx, ← sqrtFinite_eq_stickyRoot hx]
    simp [hpos.ne']

/-! ### The stretch of a harmonic (R163) -/

/-- `sqrt(1.0 + p)`, by which R163 multiplies `k`. -/
def stretch (p : F32) : F32 := fsqrt (fadd f1 p)

theorem inharmMult_of_ne_one (b : F32) {k : Nat} (hk : k ≠ 1) :
    inharmMult b k = fmul (u32tof32 k) (stretch (fmul b (fmul (u32tof32 k) (u32tof32 k)))) := if_neg hk

theorem monotoneOnClear_stretch : MonotoneOnClear stretch := monotoneOnClear_fsqrt.comp monotoneOnClear_fadd_f1

theorem stretch_f0 : stretch f0 = f1 := by decide +kernel

/-- Just below the threshold the rounded sum is at most the successor of 1.0, whose root rounds down. -/
theorem stretch_below_threshold : stretch 0x343FFFFF#32 = f1 := by decide +kernel

/-- At the threshold the sum is a tie that goes to the even pattern, whose root is above 1.0. -/
theorem stretch_threshold : stretch 0x34400000#32 = 0x3F800001#32 := by decide +kernel

/-- A harmonic's number and its square are finite and positive, 1.0 is neutral to it, and the successor of 1.0 is not. -/
theorem harmonicNumber_facts {k : Nat} (hlow : 2 ≤ k) (hhigh : k ≤ 8) :
    (isFinite (u32tof32 k) = true ∧ fmag (u32tof32 k) ≠ 0) ∧
      (isFinite (fmul (u32tof32 k) (u32tof32 k)) = true ∧ fsign (fmul (u32tof32 k) (u32tof32 k)) = false ∧
        fmag (fmul (u32tof32 k) (u32tof32 k)) ≠ 0) ∧
      fmul (u32tof32 k) f1 = u32tof32 k ∧ flt (u32tof32 k) (fmul (u32tof32 k) 0x3F800001#32) = true := by
  interval_cases k <;> decide +kernel

/-- R175 for the rounded product `p`: the stretched harmonic is monotone in `p` and rests at `k` below the threshold. -/
theorem stretched_bounds {p : F32} (hp : ClearSign p) {k : Nat} (hlow : 2 ≤ k) (hhigh : k ≤ 8) :
    fle (u32tof32 k) (fmul (u32tof32 k) (stretch p)) = true ∧
      (flt (u32tof32 k) (fmul (u32tof32 k) (stretch p)) = true ↔ fle 0x34400000#32 p = true) := by
  obtain ⟨⟨hfin, hne⟩, -, hone, habove⟩ := harmonicNumber_facts hlow hhigh
  have hk : ClearSign (u32tof32 k) := clearSign_fround _ _
  have hgrow := (monotoneOnClear_fmul hfin hk.sign hne).comp monotoneOnClear_stretch
  have h0 : ClearSign f0 := ⟨by decide, by decide⟩
  have hbelow : ClearSign 0x343FFFFF#32 := ⟨by decide, by decide⟩
  have hat : ClearSign 0x34400000#32 := ⟨by decide, by decide⟩
  have hlast : fmag 0x34400000#32 = fmag 0x343FFFFF#32 + 1 := by decide
  rw [fle_iff_fmag hk (hgrow.clear hp), flt_iff_fmag hk (hgrow.clear hp), fle_iff_fmag hat hp]
  refine ⟨?_, fun hgt => ?_, fun hle => ?_⟩
  · have hmin := hgrow.mono h0 hp (Nat.zero_le _)
    rwa [stretch_f0, hone] at hmin
  · by_contra hlt
    have hle := hgrow.mono hp hbelow (by omega)
    rw [stretch_below_threshold, hone] at hle
    omega
  · rw [← stretch_threshold, flt_iff_fmag hk (hgrow.clear hat)] at habove
    exact habove.trans_le (hgrow.mono hat hp hle)

/-- Settles O28: the rounded product has a clear sign bit, +∞ included, and the multiplier is monotone in it. -/
theorem inharmonicMultiplierBounds : Obligations.InharmonicMultiplierBounds := by
  refine fun b => ⟨if_pos rfl, fun hb k hlow hhigh => ?_⟩
  obtain ⟨-, ⟨hfin, hsign, hne⟩, -⟩ := harmonicNumber_facts hlow hhigh
  rw [inharmMult_of_ne_one b (by omega)]
  exact stretched_bounds (clearSign_fmul (clearSign_of_pos hb) hfin hsign hne) hlow hhigh

end Sys2Proof.Machine
end

section
/-! One voice (spec/41_oscillator.md R161 to R173): the key frequencies of A4 and A5, what a note-on writes, the gate of a
sample, the accumulators, and the oscillator bank. -/

namespace Sys2Proof.Machine

/-! ### Key and note-on (R161, R165) -/

/-- Settles O29: in semitones the notes are 0 and 12 above A4. -/
theorem keyFrequenciesOfA4AndA5 : Obligations.KeyFrequenciesOfA4AndA5 := fun _ hzero hone =>
  ⟨keyFreq_69 hzero, keyFreq_81 hone⟩

/-- Settles O19: the named parts of the note-on are the formulas by definition. -/
theorem noteOnVoiceFields : Obligations.NoteOnVoiceFields := by
  intro c srF n vel v f vn
  have hfreq : keyFreq c n = f := rfl
  have hvn : vnormOf vel = vn := rfl
  rw [voiceNoteOn, pianoKey, sustainDecayOf, envTrigger, hfreq, hvn]

/-! ### The gate (R167) -/

theorem envActive_eq_false_iff {e : Envelope} : envActive e = false ↔ e.state = .idle := by simp [envActive]

theorem envActive_eq_true_iff {e : Envelope} : envActive e = true ↔ e.state ≠ .idle := by simp [envActive]

/-- Settles O23: the three outcomes of a sample, each under the conditions that exclude the other two. -/
theorem voiceGating : Obligations.VoiceGating := by
  intro c srF i v
  have hcases := voiceProcess_cases c srF i v
  simp only [envActive_eq_false_iff, envActive_eq_true_iff] at hcases
  rcases hcases with ⟨ha, he, h⟩ | ⟨hrun, hidle, h⟩ | ⟨hrun, hsound, h⟩
  · have hrest : ¬ (v.active = true ∨ v.env.state ≠ .idle) := by simp [ha, he]
    exact ⟨fun _ _ => h, fun hrun => absurd hrun hrest, fun hrun => absurd hrun hrest⟩
  · exact ⟨fun ha he => absurd hrun (by simp [ha, he]), fun _ _ => h, fun _ hsound => absurd hidle hsound⟩
  · exact ⟨fun ha he => absurd hrun (by simp [ha, he]), fun _ hidle => absurd hidle hsound, fun _ _ => h⟩

/-! ### Accumulators (R168, R169) -/

/-- Settles O24: Frac is written out as the value less its floor (R18). -/
theorem voiceAccumulators : Obligations.VoiceAccumulators := by
  refine fun c srF i v => ⟨?_, rfl⟩
  rw [advanceAttack, advancePhases, frac, frac, attackStep]

/-! ### The bank (R164, R170 to R173) -/

theorem mult_of_key {v : Voice} {key : Key} (c : Config) (hk : v.key = some key) (j : Fin 8) :
    mult c v j = (c.inharmB key.note).elim c.mults[j] fun b => inharmMult b (j.val + 1) := by
  simp only [mult, hk]
  cases c.inharmB key.note <;> rfl

theorem bank_of_transient {c : Config} {ai : F32} (i : Fin 8) (v : Voice) (h : fgt ai f0p01 = true) :
    let s5 := bankBright c i v ai (bankFixed c v)
    let s8 := fadd s5 (fmul ai (fadd (fadd (fmul c.a6 (harmonic c v 5)) (fmul c.a7 (harmonic c v 6)))
      (fmul c.a8 (harmonic c v 7))))
    let sn := fadd s8 (fmul (fmul (fmul c.hnAmp ai) v.vnorm) (hammerNoise c v))
    bank c i v ai = bankDetuned c v (fadd sn (fmul (fmul (fmul c.thumpAmp ai) v.vnorm) (thump c v))) :=
  congrArg (bankDetuned c v) (if_pos h)

theorem bank_of_no_transient {c : Config} {ai : F32} (i : Fin 8) (v : Voice) (h : fgt ai f0p01 = false) :
    bank c i v ai = bankDetuned c v (bankBright c i v ai (bankFixed c v)) :=
  congrArg (bankDetuned c v) (if_neg (by simp [h]))

/-- Settles O25: with the multipliers of the key in place of `mult`, the bank of either side of the gate is the sum of
its named terms. -/
theorem oscillatorBank : Obligations.OscillatorBank := by
  intro c i v key ai hk m h
  have hm : m = mult c v := by
    funext j
    rw [mult_of_key c hk]
    simp only [m]
    cases c.inharmB key.note <;> rfl
  have hh : h = harmonic c v := by
    simp only [h, hm]
    rfl
  rw [hh]
  exact ⟨bank_of_transient i v, bank_of_no_transient i v⟩

end Sys2Proof.Machine
end

section
/-! The voice pool (spec/42_voice_pool.md R200 to R204): what every step keeps of the voices, which voice a NOTE_ON
takes, and the stealing scan. -/

namespace Sys2Proof.Machine

/-! ### What a voice's flag, key and envelope state say together -/

theorem voiceOk_iff {v : Voice} :
    voiceOk v = true ↔
      (v.active = true → v.env.state ≠ .idle) ∧
      (v.active = false → v.env.state = .idle ∨ v.env.state = .release) ∧
      (v.env.state ≠ .idle → v.key.isSome = true) := by
  rw [voiceOk, envActive]
  cases v.active <;> cases v.key.isSome <;> simp

theorem voiceOk_builtVoice (c : Config) (srF : F32) : voiceOk (builtVoice c srF) = true := rfl

theorem voiceOk_voiceNoteOn (c : Config) (srF : F32) (n : Note) (vel : Velocity) (v : Voice) :
    voiceOk (voiceNoteOn c srF n vel v) = true := rfl

theorem keyMatches_iff {n : Note} {v : Voice} : keyMatches n v = true ↔ ∃ key, v.key = some key ∧ key.note = n := by
  rw [keyMatches]
  cases v.key <;> simp

/-- Only a voice with a key is released, so a release leaves no keyless voice in Release. -/
theorem voiceOk_noteOffVoice {v : Voice} (h : voiceOk v = true) (n : Note) : voiceOk (noteOffVoice n v) = true := by
  rw [noteOffVoice]
  split_ifs with hm
  · obtain ⟨key, hkey, -⟩ := keyMatches_iff.1 hm
    exact voiceOk_iff.2 ⟨fun _ => nofun, fun _ => .inr rfl, fun _ => Option.isSome_iff_exists.2 ⟨key, hkey⟩⟩
  · exact h

/-- A sample that sounds leaves the flag alone, and what it finds inactive is in Release and stays there; one that ends
clears the flag (R167). -/
theorem voiceOk_voiceProcess {v : Voice} (h : voiceOk v = true) (c : Config) (srF : F32) (i : Fin 8) :
    voiceOk (voiceProcess c srF i v).1 = true := by
  obtain ⟨hactive, hinactive, hkey⟩ := voiceOk_iff.1 h
  rcases voiceProcess_cases c srF i v with ⟨-, -, hv⟩ | ⟨-, hidle, hv⟩ | ⟨hrun, hsound, hv⟩ <;> rw [hv]
  · exact h
  · have hidle' := envActive_eq_false_iff.1 hidle
    exact voiceOk_iff.2 ⟨nofun, fun _ => .inl hidle', fun hne => absurd hidle' hne⟩
  · have hrunning : v.env.state ≠ .idle := hrun.elim hactive envActive_eq_true_iff.1
    refine voiceOk_iff.2 ⟨fun _ => envActive_eq_true_iff.1 hsound, fun hoff => ?_, fun _ => hkey hrunning⟩
    have hrelease := (hinactive hoff).resolve_left hrunning
    exact ((envAdvance_state_of_release hrelease).imp_right And.left).symm

theorem voicesOk_keptByEffects : KeptByEffects (fun _ => False) VoicesOk where
  build u s _ _ _ := construct_forall_voices (voiceOk · = true) actual u s (voiceOk_builtVoice actual (rateF32 u))
  noteOn n vel s _ h :=
    noteOn_forall_voices (voiceOk · = true) actual n vel h fun v _ => voiceOk_voiceNoteOn actual s.srF n vel v
  noteOff n s _ h i := by
    rw [noteOff_voice]
    exact voiceOk_noteOffVoice (h i) n
  frame s _ _ h :=
    sampleFrame_forall_voices (voiceOk · = true) actual h fun i _ hv => voiceOk_voiceProcess hv actual s.srF i

/-- Settles O51: of the effects that write voices, each keeps the property of one voice. -/
theorem stepKeepsVoiceStates : Obligations.StepKeepsVoiceStates := fun _ _ hp h => voicesOk_keptByEffects.step hp h

/-! ### Allocation and NOTE_ON (R201) -/

theorem withUnits_of_cfg {s : State} (hc : s.cfg = true) (run : State → Result) : withUnits s run = run s := if_pos hc

theorem withUnits_of_not_cfg {s : State} (hc : s.cfg = false) (run : State → Result) :
    withUnits s run = .next { s with errUncfg := true } := by
  rw [withUnits, if_neg (by simp [hc])]
  rfl

theorem exec_noteOn (ch : Channel) (n : Note) (vel : Velocity) (s : State) :
    exec (.noteOn ch n vel) s = withUnits s fun s => .next (noteOn actual n vel s) := rfl

theorem voiceIndices_eq_finRange : voiceIndices = List.finRange 8 := by decide

theorem mem_voiceIndices (i : Fin 8) : i ∈ voiceIndices := by
  rw [voiceIndices_eq_finRange]
  exact List.mem_finRange i

theorem voiceIndices_pairwise_lt : voiceIndices.Pairwise (· < ·) := by decide

theorem firstFree_of_least {vs : Vector Voice 8} {j : Fin 8} (hj : vs[j].active = false)
    (hlow : ∀ k : Fin 8, k < j → vs[k].active = true) : firstFree vs = some j := by
  rw [firstFree, voiceIndices_eq_finRange, List.find?_eq_some_iff_getElem]
  refine ⟨by simpa using hj, j, by simp, by simp, fun k hk => ?_⟩
  simpa using hlow ⟨k, by omega⟩ hk

theorem firstFree_of_all_active {vs : Vector Voice 8} (h : ∀ k : Fin 8, vs[k].active = true) : firstFree vs = none :=
  List.find?_eq_none.2 fun k _ => by simpa using h k

theorem allocate_of_least {vs : Vector Voice 8} {j : Fin 8} (hj : vs[j].active = false)
    (hlow : ∀ k : Fin 8, k < j → vs[k].active = true) : allocate vs = j := by
  rw [allocate, firstFree_of_least hj hlow]

theorem allocate_of_all_active {vs : Vector Voice 8} (h : ∀ k : Fin 8, vs[k].active = true) :
    allocate vs = steal vs := by
  rw [allocate, firstFree_of_all_active h]

theorem readStatus_active (s : State) (i : Fin 8) :
    (readStatus s).getLsbD (8 + i.val) = (s.cfg && s.voices[i].active) := by
  obtain ⟨-, -, -, -, -, hactive, -⟩ := statusBitLayout s
  exact hactive i

theorem noteOn_allocated_active (c : Config) (n : Note) (vel : Velocity) (s : State) :
    (noteOn c n vel s).voices[allocate s.voices].active = true := by
  simp [voiceNoteOn]

/-- Settles O17: in both cases `j` is the allocated voice. -/
theorem noteOnWritesOneVoice : Obligations.NoteOnWritesOneVoice := by
  refine ⟨fun ch n vel s j hc hcase => ?_, fun _ _ _ _ hc => by rw [exec_noteOn, withUnits_of_not_cfg hc],
    malformedOnlyRaises .noteOn⟩
  obtain rfl : allocate s.voices = j := by
    rcases hcase with ⟨hj, hlow⟩ | ⟨hall, rfl⟩
    · exact allocate_of_least hj hlow
    · exact allocate_of_all_active hall
  refine ⟨noteOn actual n vel s, by rw [exec_noteOn, withUnits_of_cfg hc], rfl, ?_⟩
  rw [readStatus_active, noteOn_allocated_active, noteOn_cfg, hc]
  rfl

/-! ### The order of levels (R14) -/

theorem flt_of_flt_of_fle {a b c : F32} (hab : flt a b = true) (hbc : fle b c = true) : flt a c = true := by
  simp only [flt, fle, Bool.and_eq_true, decide_eq_true_eq] at hab hbc ⊢
  obtain ⟨⟨ha, -⟩, hab⟩ := hab
  obtain ⟨⟨-, hc⟩, hbc⟩ := hbc
  exact ⟨⟨ha, hc⟩, hab.trans_le hbc⟩

theorem fle_of_flt {a b : F32} (h : flt a b = true) : fle a b = true := by
  simp only [flt, fle, Bool.and_eq_true, decide_eq_true_eq] at h ⊢
  exact h.imp_right le_of_lt

theorem fle_of_not_flt {a b : F32} (ha : isNaN a = false) (hb : isNaN b = false) (h : ¬ flt a b = true) :
    fle b a = true := by
  simpa [flt, fle, ha, hb] using h

/-! ### The stealing scan (R202, R204) -/

/-- What the scan of R202 has found after the voices of `l`: `LeastOfClass` of those voices only, or that none of them
is in the class. -/
def ScanFound (vs : Vector Voice 8) (inClass : EnvState → Prop) (l : List (Fin 8)) : Option (Fin 8) → Prop
  | none => ∀ i ∈ l, ¬ inClass vs[i].env.state
  | some j => j ∈ l ∧ inClass vs[j].env.state ∧
      ∀ i ∈ l, inClass vs[i].env.state →
        fle vs[j].env.level vs[i].env.level = true ∧ (i < j → flt vs[j].env.level vs[i].env.level = true)

section
variable {vs : Vector Voice 8} {inClass : EnvState → Prop} {l : List (Fin 8)} {i : Fin 8}

/-- The best so far stays found, if the next voice is outside the class or does not beat it. -/
theorem ScanFound.keep {b : Fin 8} (h : ScanFound vs inClass l (some b))
    (hi : inClass vs[i].env.state →
      fle vs[b].env.level vs[i].env.level = true ∧ (i < b → flt vs[b].env.level vs[i].env.level = true)) :
    ScanFound vs inClass (l ++ [i]) (some b) := by
  obtain ⟨hb, hclass, hleast⟩ := h
  exact ⟨List.mem_append_left _ hb, hclass, List.forall_mem_append.2 ⟨hleast, List.forall_mem_singleton.2 hi⟩⟩

/-- A voice outside the class changes nothing. -/
theorem ScanFound.skip {best : Option (Fin 8)} (h : ScanFound vs inClass l best) (hi : ¬ inClass vs[i].env.state) :
    ScanFound vs inClass (l ++ [i]) best := by
  cases best with
  | none => exact List.forall_mem_append.2 ⟨h, List.forall_mem_singleton.2 hi⟩
  | some b => exact h.keep fun hclass => absurd hclass hi

/-- A voice strictly below all voices of the class before it is found. -/
theorem ScanFound.take (hi : inClass vs[i].env.state) (hnan : isNaN vs[i].env.level = false)
    (hlow : ∀ k ∈ l, inClass vs[k].env.state → flt vs[i].env.level vs[k].env.level = true) :
    ScanFound vs inClass (l ++ [i]) (some i) := by
  refine ⟨by simp, hi, List.forall_mem_append.2 ⟨fun k hk hclass => ?_, List.forall_mem_singleton.2 fun _ => ?_⟩⟩
  · exact ⟨fle_of_flt (hlow k hk hclass), fun _ => hlow k hk hclass⟩
  · exact ⟨fle_refl hnan, fun hlt => absurd hlt (lt_irrefl _)⟩

/-- One candidate more: it is strictly below the best, or the best is not above it and stands before it. -/
theorem ScanFound.stealStep [DecidablePred inClass] {best : Option (Fin 8)} (h : ScanFound vs inClass l best)
    (hnan : ∀ k : Fin 8, isNaN vs[k].env.level = false) (hlast : ∀ k ∈ l, k < i) :
    ScanFound vs inClass (l ++ [i]) (stealStep vs (fun st => decide (inClass st)) best i) := by
  unfold Machine.stealStep
  by_cases hi : inClass vs[i].env.state
  · rw [if_pos (decide_eq_true hi)]
    cases best with
    | none => exact .take hi (hnan i) fun k hk hkc => absurd hkc (h k hk)
    | some b =>
      have ⟨hb, _, hleast⟩ := h
      dsimp only
      split_ifs with hlt
      · exact .take hi (hnan i) fun k hk hkc => flt_of_flt_of_fle hlt (hleast k hk hkc).1
      · exact h.keep fun _ => ⟨fle_of_not_flt (hnan i) (hnan b) hlt, fun hib => absurd hib (hlast b hb).asymm⟩
  · rw [if_neg (by simpa only [decide_eq_true_eq] using hi)]
    exact h.skip hi

theorem scanFound_foldl [DecidablePred inClass] (hnan : ∀ k : Fin 8, isNaN vs[k].env.level = false)
    (hl : l.Pairwise (· < ·)) :
    ScanFound vs inClass l (l.foldl (Machine.stealStep vs fun st => decide (inClass st)) none) := by
  induction l using List.reverseRecOn with
  | nil => exact nofun
  | append_singleton l i ih =>
    obtain ⟨hl, -, hlast⟩ := List.pairwise_append.1 hl
    rw [List.foldl_append]
    exact (ih hl).stealStep hnan fun k hk => hlast k hk i (List.mem_singleton_self i)

theorem scanFound_stealClass (inClass : EnvState → Prop) [DecidablePred inClass]
    (hnan : ∀ k : Fin 8, isNaN vs[k].env.level = false) :
    ScanFound vs inClass voiceIndices (stealClass vs fun st => decide (inClass st)) :=
  scanFound_foldl hnan voiceIndices_pairwise_lt

/-- A class with a voice in it is answered by its quietest, of equals the first. -/
theorem exists_stealClass [DecidablePred inClass] (hnan : ∀ k : Fin 8, isNaN vs[k].env.level = false)
    (h : ∃ i : Fin 8, inClass vs[i].env.state) :
    ∃ j, stealClass vs (fun st => decide (inClass st)) = some j ∧ LeastOfClass vs inClass j := by
  have hfound := scanFound_stealClass inClass hnan
  cases hj : stealClass vs fun st => decide (inClass st) with
  | none =>
    rw [hj] at hfound
    obtain ⟨i, hi⟩ := h
    exact absurd hi (hfound i (mem_voiceIndices i))
  | some j =>
    rw [hj] at hfound
    obtain ⟨-, hclass, hleast⟩ := hfound
    exact ⟨j, rfl, hclass, fun i => hleast i (mem_voiceIndices i)⟩

theorem stealClass_eq_none [DecidablePred inClass] (hnan : ∀ k : Fin 8, isNaN vs[k].env.level = false)
    (h : ∀ i : Fin 8, ¬ inClass vs[i].env.state) : stealClass vs (fun st => decide (inClass st)) = none := by
  have hfound := scanFound_stealClass inClass hnan
  cases hj : stealClass vs fun st => decide (inClass st) with
  | none => rfl
  | some j =>
    rw [hj] at hfound
    obtain ⟨-, hclass, -⟩ := hfound
    exact absurd hclass (h j)

end

/-- Settles O18: each class is scanned only where the classes before it answered nothing. -/
theorem stealTakesQuietestOfClass : Obligations.StealTakesQuietestOfClass := by
  refine fun vs hnan => ⟨fun hrelease => ?_, fun hrelease hsustain => ?_, fun hrelease hsustain => ?_⟩
  · obtain ⟨j, hj, hleast⟩ := exists_stealClass (inClass := (· = .release)) hnan hrelease
    rwa [steal, hj]
  · obtain ⟨j, hj, hleast⟩ := exists_stealClass (inClass := (· = .sustain)) hnan hsustain
    rwa [steal, stealClass_eq_none (inClass := (· = .release)) hnan hrelease, hj]
  · obtain ⟨j, hj, hleast⟩ := exists_stealClass (inClass := fun _ => True) hnan ⟨0, trivial⟩
    rw [decide_true] at hj
    rwa [steal, stealClass_eq_none (inClass := (· = .release)) hnan hrelease,
      stealClass_eq_none (inClass := (· = .sustain)) hnan hsustain, hj]

/-! ### NOTE_OFF (R203) -/

theorem exec_noteOff (ch : Channel) (n : Note) (vel : Velocity) (s : State) :
    exec (.noteOff ch n vel) s = withUnits s fun s => .next (noteOff n s) := rfl

theorem noteOffVoice_of_match {n : Note} {v : Voice} (h : ∃ key, v.key = some key ∧ key.note = n) :
    noteOffVoice n v = { v with env := { v.env with state := .release } } :=
  if_pos (keyMatches_iff.2 h)

theorem noteOffVoice_of_no_match {n : Note} {v : Voice} (h : ∀ key, v.key = some key → key.note ≠ n) :
    noteOffVoice n v = v :=
  if_neg fun hm =>
    let ⟨key, hkey, hnote⟩ := keyMatches_iff.1 hm
    h key hkey hnote

/-- Settles O20: each voice after NOTE_OFF is `noteOffVoice` of the one before. -/
theorem noteOffReleasesEveryMatch : Obligations.NoteOffReleasesEveryMatch := by
  refine ⟨fun ch n vel s hc => ⟨noteOff n s, by rw [exec_noteOff, withUnits_of_cfg hc], rfl, fun i => ?_⟩,
    fun _ _ _ _ hc => by rw [exec_noteOff, withUnits_of_not_cfg hc], malformedOnlyRaises .noteOff⟩
  rw [noteOff_voice]
  exact ⟨noteOffVoice_of_match, noteOffVoice_of_no_match⟩

end Sys2Proof.Machine
end

section
/-! The reverb (spec/43_reverb.md R220 to R236): what a frame does to each filter's line, what the mix returns, the five
setters, and the length of a line. -/

namespace Sys2Proof.Machine

/-! ### SAMPLE on the filters (R224, R225) -/

theorem exec_sample_next {s t : State} (h : exec .sample s = .next t) (hc : s.cfg = true) :
    t = sampleFrame actual s := by
  rcases execSample_next h with ⟨-, -, ht⟩ | ⟨hc', -⟩
  · exact ht
  · simp [hc] at hc'

/-- In canonical form the cell under a comb's index reads what the loop feeds back (R224). -/
theorem memRead_combProcess_idx {k : Comb} (h : memWf k.buf = true) (x : F32) :
    memRead (combProcess k x).1.buf k.idx = fadd x (fmul (combStore k) k.feedback) :=
  memRead_memWrite_same h _ _

theorem memRead_combProcess_other {k : Comb} {a : Nat} (h : a ≠ k.idx) (x : F32) :
    memRead (combProcess k x).1.buf a = memRead k.buf a :=
  memRead_memWrite_other h _

theorem memRead_allpassProcess_idx {a : Allpass} (h : memWf a.buf = true) (x : F32) :
    memRead (allpassProcess a x).1.buf a.idx = fadd x (fmul (memRead a.buf a.idx) a.feedback) :=
  memRead_memWrite_same h _ _

theorem memRead_allpassProcess_other {a : Allpass} {b : Nat} (h : b ≠ a.idx) (x : F32) :
    memRead (allpassProcess a x).1.buf b = memRead a.buf b :=
  memRead_memWrite_other h _

/-- Settles O30: a frame runs every comb on the voice sum, and a comb writes the one cell under its index. -/
theorem sampleAdvancesCombs : Obligations.SampleAdvancesCombs := by
  intro s t h hc hwf k
  obtain rfl := exec_sample_next h hc
  rw [sampleFrame_comb]
  exact ⟨rfl, memRead_combProcess_idx (hwf k) _, fun _ ha => memRead_combProcess_other ha _, rfl, rfl, rfl, rfl⟩

/-- Settles O31: the two inputs are written out in the frame's series; the rest is the same for any input. -/
theorem sampleAdvancesAllpasses : Obligations.SampleAdvancesAllpasses := by
  intro s t h hc hwf
  obtain rfl := exec_sample_next h hc
  refine ⟨?_, ?_, fun a => ?_⟩
  · rw [sampleFrame_aps, apsAfter_zero]
    exact memRead_allpassProcess_idx (hwf 0) _
  · rw [sampleFrame_aps, apsAfter_one]
    exact memRead_allpassProcess_idx (hwf 1) _
  · obtain ⟨y, hy⟩ := sampleFrame_ap actual s a
    rw [hy]
    exact ⟨fun _ hb => memRead_allpassProcess_other hb y, rfl, rfl, rfl⟩

/-! ### The mix (R226, R236) -/

/-- Settles O32: each filter's output is read off its line before the write. -/
theorem reverbMix : Obligations.ReverbMix := by
  intro rv combs aps x
  rw [reverbOut, secondAllpassOut, firstAllpassOut, combMean]
  rfl

theorem fint_eq_zero_iff {x : F32} (h : isFinite x = true) : fint x = 0 ↔ fmag x = 0 := by
  constructor
  · intro hz
    by_contra hne
    have hpos : funits f0 < funits x := funits_lt h (by rw [show fmag f0 = 0 by decide]; omega)
    unfold fint at hz
    split_ifs at hz <;> omega
  · intro hm
    simp [fint, funits, hm]

theorem isFinite_of_fmag_eq_zero {x : F32} (h : fmag x = 0) : isFinite x = true := by simp [isFinite, h]

theorem roundMag_mul_left {d : Nat} (hd : 0 < d) (n : Nat) : roundMag (d * n) d = roundMag n 1 :=
  le_antisymm (roundMag_mono hd Nat.one_pos (by rw [Nat.mul_one, Nat.mul_comm]))
    (roundMag_mono Nat.one_pos hd (by rw [Nat.mul_one, Nat.mul_comm]))

/-- A product with 1.0 is the other factor, its sign included (R14). -/
theorem fmul_f1_left {x : F32} (h : isFinite x = true) : fmul f1 x = x := by
  have h1 : fsign f1 = false ∧ isFinite f1 = true ∧ funits f1 = unitsPerOne := by decide
  obtain ⟨hsign, hfin, hunits⟩ := h1
  have hmul : fmul f1 x = fround (fsign x) (unitsPerOne * funits x) unitsPerOne := by
    simp [fmul, isNaN_of_isFinite, isInf_of_isFinite, h, hfin, hsign, hunits]
  have hone : 0 < unitsPerOne := Nat.two_pow_pos 149
  rw [hmul, fround, roundMag_mul_left hone, roundMag_funits h, fpack_fields]

/-- A product of +0.0 with a finite value is a zero of either sign (R14). -/
theorem fmag_fmul_f0_left {x : F32} (h : isFinite x = true) : fmag (fmul f0 x) = 0 := by
  have h0 : isFinite f0 = true ∧ funits f0 = 0 := by decide
  obtain ⟨hfin, hunits⟩ := h0
  have hmul : fmul f0 x = fround (fsign f0 != fsign x) 0 unitsPerOne := by
    simp [fmul, isNaN_of_isFinite, isInf_of_isFinite, h, hfin, hunits]
  rw [hmul, fmag_fround]
  decide

theorem fadd_of_finite {a b : F32} (ha : isFinite a = true) (hb : isFinite b = true) : fadd a b = addFinite a b := by
  simp [fadd, addAs, isNaN_of_isFinite, isInf_of_isFinite, ha, hb]

/-- Adding a zero of either sign leaves a value that is not zero as it is (R14). -/
theorem fadd_of_fmag_eq_zero {x z : F32} (hx : isFinite x = true) (hne : fmag x ≠ 0) (hz : fmag z = 0) :
    fadd x z = x := by
  have hzfin := isFinite_of_fmag_eq_zero hz
  have hint : fint x ≠ 0 := mt (fint_eq_zero_iff hx).1 hne
  have hneg : decide (fint x < 0) = fsign x ∧ (fint x).natAbs = funits x := by
    unfold fint at hint ⊢
    cases hs : fsign x <;> simp [hs] at hint ⊢
    omega
  obtain ⟨hsign, habs⟩ := hneg
  rw [fadd_of_finite hx hzfin, addFinite, (fint_eq_zero_iff hzfin).2 hz, Int.add_zero, if_neg hint, hsign, habs, fround,
    roundMag_funits hx, fpack_fields]

/-- The sum of two zeros is a zero (R14). -/
theorem fmag_fadd_zeros {x z : F32} (hx : fmag x = 0) (hz : fmag z = 0) : fmag (fadd x z) = 0 := by
  have hxfin := isFinite_of_fmag_eq_zero hx
  have hzfin := isFinite_of_fmag_eq_zero hz
  rw [fadd_of_finite hxfin hzfin, addFinite, (fint_eq_zero_iff hxfin).2 hx, (fint_eq_zero_iff hzfin).2 hz,
    if_pos (Int.add_zero 0), fmag_fpack _ (by decide)]

theorem feq_refl {x : F32} (h : isNaN x = false) : feq x x = true := by simp [feq, h]

/-- The two zeros are equal (R14). -/
theorem feq_of_fmag_eq_zero {x y : F32} (hx : fmag x = 0) (hy : fmag y = 0) : feq x y = true := by
  simp [feq, isNaN, forder, hx, hy]

/-- Settles O33: the wet part is a zero, and only the sign of a zero input can change by adding it. -/
theorem dryOnlyReverbIsTransparent : Obligations.DryOnlyReverbIsTransparent := by
  intro rv combs aps x hwet hdry hx hc
  have hzero := fmag_fmul_f0_left hc
  rw [reverbOut, hwet, hdry, fmul_f1_left hx]
  by_cases hm : fmag x = 0
  · exact ⟨feq_of_fmag_eq_zero (fmag_fadd_zeros hm hzero) hm, fun hne => absurd hm hne⟩
  · rw [fadd_of_fmag_eq_zero hx hm hzero]
    exact ⟨feq_refl (isNaN_of_isFinite hx), fun _ => rfl⟩

/-! ### The setters (R231 to R235) -/

theorem exec_setter_of_nan {i : Instr} {f : F32} {s : State} (h : setterOperand i = some f) (hc : s.cfg = true)
    (hn : isNaN f = true) : exec i s = .next { s with errNan := true } := by
  obtain ⟨-, hnan, -⟩ := nanOperandsOnlyRaise
  exact hnan i f s h hc hn

theorem exec_setter_of_not_cfg {i : Instr} {f : F32} {s : State} (h : setterOperand i = some f) (hc : s.cfg = false) :
    exec i s = .next { s with errUncfg := true } := by
  obtain ⟨run, _, hexec, _⟩ := exec_setter h
  rw [hexec, withF32, withUnits_of_not_cfg hc]

/-- Settles O34: a number reaches the register and then `recomputeCombs`; the errors are those of every setter. -/
theorem roomAndDampRecomputeCombs : Obligations.RoomAndDampRecomputeCombs := by
  refine ⟨fun f s hc hn => ?_, fun f s hc hn => ?_, fun f s hc hn => ?_, fun f s hc => ?_,
    malformedOnlyRaises .setRoom, malformedOnlyRaises .setDamp⟩
  · exact ⟨setRoom f s, withF32_of_number hc hn _, rfl, recomputeCombs_comb _⟩
  · exact ⟨setDamp f s, withF32_of_number hc hn _, rfl, recomputeCombs_comb _⟩
  · exact ⟨exec_setter_of_nan rfl hc hn, exec_setter_of_nan rfl hc hn⟩
  · exact ⟨exec_setter_of_not_cfg rfl hc, exec_setter_of_not_cfg rfl hc⟩

theorem exec_setWet (f : F32) (s : State) :
    exec (.setWet f) s = withF32 f s fun s => { s with rv := { s.rv with wet := clampUnit f } } := rfl

theorem exec_setDry (f : F32) (s : State) :
    exec (.setDry f) s = withF32 f s fun s => { s with rv := { s.rv with dry := clampUnit f } } := rfl

theorem exec_setWidth (f : F32) (s : State) :
    exec (.setWidth f) s = withF32 f s fun s => { s with rv := { s.rv with width := clampUnit f } } := rfl

/-- Settles O35: a number reaches the one register; the errors are those of every setter. -/
theorem mixSettersWriteOneRegister : Obligations.MixSettersWriteOneRegister := by
  refine ⟨fun f s hc hn => ?_, fun f s hc hn => ?_, fun f s hc => ?_,
    malformedOnlyRaises .setWet, malformedOnlyRaises .setDry, malformedOnlyRaises .setWidth⟩
  · rw [exec_setWet, exec_setDry, exec_setWidth]
    exact ⟨withF32_of_number hc hn _, withF32_of_number hc hn _, withF32_of_number hc hn _⟩
  · exact ⟨exec_setter_of_nan rfl hc hn, exec_setter_of_nan rfl hc hn, exec_setter_of_nan rfl hc hn⟩
  · exact ⟨exec_setter_of_not_cfg rfl hc, exec_setter_of_not_cfg rfl hc, exec_setter_of_not_cfg rfl hc⟩

/-! ### The length of a line (R221) -/

/-- A length is bounded by the lengths at the two ends of the admitted rates. -/
theorem delayLen_between {ms : F32} (hms : unitPhase (fmul ms f0p001) = true) {lo hi : Nat}
    (hmin : lo ≤ delayLen ms (rateF32 8000#32)) (hmax : delayLen ms (rateF32 192000#32) ≤ hi) {u : BitVec 32}
    (hu : admittedRate u = true) : lo ≤ delayLen ms (rateF32 u) ∧ delayLen ms (rateF32 u) ≤ hi := by
  obtain ⟨hlow, hhigh⟩ := admittedRate_iff.1 hu
  exact ⟨hmin.trans (delayLen_mono hms (by decide) hu hlow),
    (delayLen_mono (v := 192000#32) hms hu (by decide) hhigh).trans hmax⟩

/-- Each delay time is below one second. The 1.7 ms line at 8000 Hz takes the lower bound, the 43.7 ms line at 192000 Hz
the upper one. -/
theorem delayLen_at_ends :
    (∀ k : Fin 4, unitPhase (fmul combMs[k] f0p001) = true ∧ 14 ≤ delayLen combMs[k] (rateF32 8000#32) ∧
      delayLen combMs[k] (rateF32 192000#32) ≤ 8390) ∧
    (∀ a : Fin 2, unitPhase (fmul apMs[a] f0p001) = true ∧ 14 ≤ delayLen apMs[a] (rateF32 8000#32) ∧
      delayLen apMs[a] (rateF32 192000#32) ≤ 8390) := by decide +kernel

/-- Settles O44: a length grows with the rate, so the two end rates bound it. -/
theorem delayLengthBounds : Obligations.DelayLengthBounds := by
  intro u hu
  obtain ⟨hcombs, haps⟩ := delayLen_at_ends
  refine ⟨fun k => ?_, fun a => ?_⟩
  · obtain ⟨hms, hmin, hmax⟩ := hcombs k
    exact delayLen_between hms hmin hmax hu
  · obtain ⟨hms, hmin, hmax⟩ := haps a
    exact delayLen_between hms hmin hmax hu

end Sys2Proof.Machine
end

section
/-! The width register is inert (spec/43_reverb.md R226, R235): every effect gives the same but for the width, whatever
the width was, and the checks before an effect do not read it. -/

namespace Sys2Proof.Machine

/-- The state with another value in the width register. -/
def State.withWidth (s : State) (w : F32) : State := { s with rv := { s.rv with width := w } }

theorem eqButWidth_iff {s s' : State} : EqButWidth s s' ↔ ∃ w, s' = s.withWidth w := Iff.rfl

/-- An effect that gives the same but for the width, whatever the width was. -/
def WidthBlind (run : State → State) : Prop := ∀ s w, ∃ x, run (s.withWidth w) = (run s).withWidth x

theorem widthBlind_setFlag (e : BlockError) : WidthBlind (setFlag e) := fun _ w => ⟨w, by cases e <;> rfl⟩

theorem widthBlind_construct (c : Config) (u : BitVec 32) : WidthBlind (construct c u) := fun _ _ => ⟨c.width0, rfl⟩

/-- The voices, the filters and the limiter have registers of their own, and the mix reads the wet and the dry weight
only (R226, R291). -/
theorem widthBlind_sampleFrame (c : Config) : WidthBlind (sampleFrame c) := fun _ w => ⟨w, rfl⟩

/-- The setters but SET_WIDTH leave the width, and SET_WIDTH writes it from its operand (R231 to R235, R270 to
R273). -/
theorem exec_setter_widthBlind {i : Instr} {f : F32} (h : setterOperand i = some f) :
    ∃ run, (∀ s, exec i s = withF32 f s run) ∧ WidthBlind run := by
  cases i with
  | nop | noteOn | noteOff | setRate | clrErr | sample => cases h
  | setRoom | setDamp | setWet | setDry | setThresh | setAttack | setRelease | setMakeup =>
    obtain rfl := Option.some.inj h
    exact ⟨_, fun _ => rfl, fun _ w => ⟨w, rfl⟩⟩
  | setWidth g =>
    obtain rfl := Option.some.inj h
    exact ⟨_, fun _ => rfl, fun _ _ => ⟨clampUnit g, rfl⟩⟩

/-- A command answers next states alike under every width. -/
def WidthBlindResult (run : State → Result) : Prop :=
  ∀ s t w, run s = .next t → ∃ x, run (s.withWidth w) = .next (t.withWidth x)

theorem WidthBlind.next {run : State → State} (h : WidthBlind run) : WidthBlindResult fun s => .next (run s) := by
  intro s t w ht
  obtain rfl := Host.Outcome.next.inj ht
  obtain ⟨x, hx⟩ := h s w
  exact ⟨x, congrArg _ hx⟩

theorem widthBlindResult_raiseError (e : BlockError) : WidthBlindResult (raiseError e) := (widthBlind_setFlag e).next

/-- A choice that does not read the width. -/
theorem WidthBlindResult.ite {p : State → Prop} [DecidablePred p] {run run' : State → Result}
    (hp : ∀ s w, p (s.withWidth w) ↔ p s) (h : WidthBlindResult run) (h' : WidthBlindResult run') :
    WidthBlindResult fun s => if p s then run s else run' s := by
  intro s t w ht
  dsimp only at ht ⊢
  simp only [hp]
  split_ifs at ht ⊢
  · exact h s t w ht
  · exact h' s t w ht

theorem WidthBlindResult.withUnits {run : State → Result} (h : WidthBlindResult run) :
    WidthBlindResult (withUnits · run) :=
  .ite (fun _ _ => Iff.rfl) h (widthBlindResult_raiseError .uncfg)

theorem WidthBlind.withF32 {run : State → State} (h : WidthBlind run) (f : F32) :
    WidthBlindResult (withF32 f · run) :=
  .withUnits (.ite (fun _ _ => Iff.rfl) (widthBlindResult_raiseError .nan) h.next)

theorem widthBlindResult_exec_setter {i : Instr} {f : F32} (h : setterOperand i = some f) :
    WidthBlindResult (exec i) := by
  obtain ⟨run, hexec, hrun⟩ := exec_setter_widthBlind h
  rw [show exec i = (withF32 f · run) from funext hexec]
  exact hrun.withF32 f

theorem widthBlindResult_exec (i : Instr) : WidthBlindResult (exec i) := by
  have hkeep : WidthBlindResult .next := WidthBlind.next (run := id) fun _ w => ⟨w, rfl⟩
  cases i with
  | nop => exact hkeep
  | clrErr => exact WidthBlind.next (run := clearFlags) fun _ w => ⟨w, rfl⟩
  | noteOn ch n v => exact .withUnits (WidthBlind.next (run := noteOn actual n v) fun _ w => ⟨w, rfl⟩)
  | noteOff ch n v => exact .withUnits (WidthBlind.next (run := noteOff n) fun _ w => ⟨w, rfl⟩)
  | setRate u =>
    exact .ite (fun _ _ => Iff.rfl) (widthBlindResult_raiseError .range)
      (.ite (fun _ _ => Iff.rfl) hkeep (widthBlind_construct actual u).next)
  | sample =>
    have hfault : WidthBlindResult fun _ => .fault .delayLineIndex := fun _ _ _ h => by cases h
    exact .withUnits (.ite (fun _ _ => Iff.rfl) (widthBlind_sampleFrame actual).next hfault)
  | setRoom | setDamp | setWet | setDry | setWidth | setThresh | setAttack | setRelease | setMakeup =>
    exact widthBlindResult_exec_setter rfl

theorem widthBlindResult_runWord (w : Word) : WidthBlindResult (runWord w) := by
  cases hdec : decode w with
  | ok i =>
    rw [show runWord w = exec i from funext (runWord_of_ok hdec)]
    exact widthBlindResult_exec i
  | error e =>
    rw [show runWord w = raiseError .illegal from funext (runWord_of_error hdec)]
    exact widthBlindResult_raiseError .illegal

theorem widthBlindResult_step : WidthBlindResult step := by
  intro s t w h
  cases hs : s.stream with
  | nil =>
    rw [step_of_nil hs] at h
    obtain rfl := Host.Outcome.next.inj h
    exact ⟨w, step_of_nil hs⟩
  | cons word rest =>
    rw [step_of_cons hs] at h
    rw [step_of_cons (s := s.withWidth w) hs]
    exact widthBlindResult_runWord word { s with stream := rest } t w h

/-- Settles O36: a step is blind to the width, and neither port shows it. -/
theorem widthIsInert : Obligations.WidthIsInert := by
  intro s s' t heq h
  obtain ⟨w, rfl⟩ := eqButWidth_iff.1 heq
  obtain ⟨x, hx⟩ := widthBlindResult_step s t w h
  exact ⟨t.withWidth x, hx, eqButWidth_iff.2 ⟨x, rfl⟩, rfl, rfl⟩

end Sys2Proof.Machine
end

section
/-! The limiter (spec/44_limiter.md R260 to R273): the gain of R266 against 1.0 and below the threshold, the limiter's
part of a frame, and the four setters. -/

namespace Sys2Proof.Machine

/-! ### A quotient that is not above 1.0 (R14) -/

theorem forder_le_fmag (x : F32) : forder x ≤ fmag x := by
  unfold forder
  split_ifs <;> omega

/-- From −0.0 upward the place in the order is the magnitude. -/
theorem forder_eq_fmag {x : F32} (h : fle f0 x = true) : forder x = fmag x := by
  obtain ⟨-, hs | hm⟩ := fle_f0_iff.1 h
  · simp [forder, hs]
  · simp [forder, hm]

theorem fmag_lt_of_flt {a b : F32} (ha : fle f0 a = true) (h : flt a b = true) : fmag a < fmag b := by
  have hlt : forder a < forder b := by
    simp only [flt, Bool.and_eq_true, decide_eq_true_eq] at h
    exact h.right
  rw [forder_eq_fmag ha] at hlt
  exact_mod_cast hlt.trans_le (forder_le_fmag b)

theorem fle_f1_of_fmag_le {x : F32} (h : fmag x ≤ fmag f1) : fle x f1 = true := by
  have h1 : isNaN f1 = false ∧ fmag f1 < 0x7F800000 ∧ forder f1 = fmag f1 := by decide
  obtain ⟨hnan, hfin, horder⟩ := h1
  have hx : isNaN x = false := by
    rw [isNaN, decide_eq_false_iff_not]
    omega
  have hle : forder x ≤ forder f1 := by
    rw [horder]
    exact (forder_le_fmag x).trans (by exact_mod_cast h)
  simp [fle, hx, hnan, hle]

theorem isFinite_of_number {x : F32} (hnan : isNaN x = false) (hinf : isInf x = false) : isFinite x = true := by
  simp [isNaN, isInf, isFinite] at *
  omega

/-- The exact quotient is below 1.0, and rounding does not pass 1.0, which is a pattern's value. -/
theorem fmag_fdiv_le_f1 {a b : F32} (hb : isNaN b = false) (h : fmag a < fmag b) : fmag (fdiv a b) ≤ fmag f1 := by
  have ha : isFinite a = true := by
    simp [isNaN, isFinite] at hb ⊢
    omega
  have hzero : fmag b ≠ 0 := by omega
  simp only [fdiv, isNaN_of_isFinite ha, hb, isInf_of_isFinite ha, hzero, Bool.or_self, Bool.false_eq_true, if_false]
  split_ifs with hinf
  · rw [fmag_fpack _ (by decide)]
    exact Nat.zero_le _
  · have hunits : funits a < funits b := funits_lt (isFinite_of_number hb (Bool.eq_false_of_not_eq_true hinf)) h
    rw [fmag_fround, ← roundMag_funits (x := f1) (by decide), show funits f1 = unitsPerOne by decide]
    refine roundMag_mono (by omega) Nat.one_pos ?_
    rw [Nat.mul_one, Nat.mul_comm]
    exact Nat.mul_le_mul_left _ hunits.le

/-! ### The gain (R266) -/

theorem gainFor_of_above {threshLin env : F32} (h : fgt env threshLin = true) :
    gainFor threshLin env = fdiv threshLin env := if_pos h

theorem gainFor_of_not_above {threshLin env : F32} (h : fgt env threshLin = false) : gainFor threshLin env = f1 :=
  if_neg (by simp [h])

theorem isNaN_of_fgt {a b : F32} (h : fgt a b = true) : isNaN a = false := by
  simp only [fgt, flt, Bool.and_eq_true, Bool.not_eq_true'] at h
  obtain ⟨⟨-, ha⟩, -⟩ := h
  exact ha

theorem gainFor_le_one {threshLin : F32} (h0 : fle f0 threshLin = true) (env : F32) :
    fle (gainFor threshLin env) f1 = true := by
  cases h : fgt env threshLin with
  | true =>
    rw [gainFor_of_above h]
    exact fle_f1_of_fmag_le (fmag_fdiv_le_f1 (isNaN_of_fgt h) (fmag_lt_of_flt h0 h))
  | false =>
    rw [gainFor_of_not_above h]
    exact fle_refl (by decide)

/-- Settles O38: the gain is 1.0, or a quotient whose divisor is the larger. A NaN follower is not above the threshold,
so that the premise on it is not needed. -/
theorem gainNeverAboveOne : Obligations.GainNeverAboveOne := fun lim x h0 _ => gainFor_le_one h0 (followEnv lim x)

/-- A product with 1.0 is the other factor, its sign included; an infinity is kept too (R14). -/
theorem fmul_f1_right {x : F32} (h : isNaN x = false) : fmul x f1 = x := by
  cases hinf : isInf x with
  | true =>
    have hm : fmag x = 0x7F800000 := by simpa [isInf] using hinf
    have h1 : isNaN f1 = false ∧ fmag f1 ≠ 0 ∧ fsign f1 = false := by decide
    obtain ⟨hnan, hne, hsign⟩ := h1
    have hmul : fmul x f1 = fpack (fsign x) 0x7F800000 := by simp [fmul, h, hinf, hm, hnan, hne, hsign]
    rw [hmul, ← hm, fpack_fields]
  | false =>
    have hfin := isFinite_of_number h hinf
    have hcomm : fmul x f1 = fmul f1 x := by
      have h1 : isFinite f1 = true := by decide
      simp [fmul, isNaN_of_isFinite, isInf_of_isFinite, h1, hfin, Nat.mul_comm, Bool.xor_comm]
    rw [hcomm, fmul_f1_left hfin]

/-- Settles O39: the gain is 1.0, and the product with it keeps the input. -/
theorem belowThresholdOnlyMakeup : Obligations.BelowThresholdOnlyMakeup := by
  intro lim x hx hbelow
  rw [limiterOut, limiterAfter, gainFor_of_not_above hbelow, fmul_f1_right hx]

/-! ### SAMPLE on the limiter (R266, R291) -/

/-- Settles O37: the frame runs the limiter on the reverb's output. -/
theorem sampleRunsLimiter : Obligations.SampleRunsLimiter := by
  intro s t h hc
  obtain rfl := exec_sample_next h hc
  rw [sampleFrame_lim, sampleFrame_out]
  exact ⟨rfl, rfl⟩

/-! ### The setters (R270 to R273) -/

theorem exec_setThresh (f : F32) (s : State) : exec (.setThresh f) s = withF32 f s (setThresh actual f) := rfl

theorem exec_setMakeup (f : F32) (s : State) : exec (.setMakeup f) s = withF32 f s (setMakeup actual f) := rfl

theorem exec_setAttack (f : F32) (s : State) : exec (.setAttack f) s = withF32 f s (setAttack actual f) := rfl

theorem exec_setRelease (f : F32) (s : State) : exec (.setRelease f) s = withF32 f s (setRelease actual f) := rfl

/-- Settles O40: a number reaches the pair of registers; the errors are those of every setter. -/
theorem decibelSettersWritePair : Obligations.DecibelSettersWritePair := by
  refine ⟨fun f s hc hn => ?_, fun f s hc hn => ?_, fun f s hc => ?_,
    malformedOnlyRaises .setThresh, malformedOnlyRaises .setMakeup⟩
  · rw [exec_setThresh, exec_setMakeup]
    exact ⟨withF32_of_number hc hn _, withF32_of_number hc hn _⟩
  · exact ⟨exec_setter_of_nan rfl hc hn, exec_setter_of_nan rfl hc hn⟩
  · exact ⟨exec_setter_of_not_cfg rfl hc, exec_setter_of_not_cfg rfl hc⟩

/-- Settles O41: the coefficient is computed at the held rate from the clamped time; the errors are those of every
setter. -/
theorem timeSettersWritePair : Obligations.TimeSettersWritePair := by
  refine ⟨fun f s hc hn => ?_, fun f s hc hn => ?_, fun f s hc => ?_,
    malformedOnlyRaises .setAttack, malformedOnlyRaises .setRelease⟩
  · rw [exec_setAttack, exec_setRelease]
    exact ⟨withF32_of_number hc hn _, withF32_of_number hc hn _⟩
  · exact ⟨exec_setter_of_nan rfl hc hn, exec_setter_of_nan rfl hc hn⟩
  · exact ⟨exec_setter_of_not_cfg rfl hc, exec_setter_of_not_cfg rfl hc⟩

end Sys2Proof.Machine
end

section
/-! The system commands (spec/45_chain_and_system.md R291, R295 to R299): NOP, CLR_ERR, the three outcomes of SET_RATE
and what a construction writes, the two outcomes of SAMPLE and what a frame writes. -/

namespace Sys2Proof.Machine

/-! ### NOP and CLR_ERR (R298, R299) -/

theorem exec_nop (s : State) : exec .nop s = .next s := rfl

theorem exec_clrErr (s : State) : exec .clrErr s = .next (clearFlags s) := rfl

/-- Settles O15: NOP has no effect, and its malformed words are those of every row. -/
theorem nopChangesNothing : Obligations.NopChangesNothing := ⟨exec_nop, malformedOnlyRaises .nop⟩

/-- The mask 0xFFFFFFE1 leaves out bits 4:1. -/
theorem getLsbD_errorMask {j : Nat} (hj : j < 32) :
    (0xFFFFFFE1#32 : BitVec 32).getLsbD j = !decide (1 ≤ j ∧ j ≤ 4) := by
  have hall : ∀ k : Fin 32, (0xFFFFFFE1#32 : BitVec 32).getLsbD k.val = !decide (1 ≤ k.val ∧ k.val ≤ 4) := by decide
  exact hall ⟨j, hj⟩

/-- The cleared flags are the bits 4:1 of STATUS, and every other bit is of a field that is kept (R48, R299). -/
theorem status_clearFlags (s : State) : status (clearFlags s) = status s &&& 0xFFFFFFE1#32 := by
  refine BitVec.eq_of_getLsbD_eq fun j hj => ?_
  rw [BitVec.getLsbD_and, getLsbD_errorMask hj, getLsbD_status, getLsbD_status]
  by_cases herr : 1 ≤ j ∧ j ≤ 4
  · have hne : ∀ k, k = 0 ∨ 5 ≤ k → decide (j = k) = false := fun k hk => by simp; omega
    simp [herr, hne]
  · have hne : ∀ k, 1 ≤ k ∧ k ≤ 4 → decide (j = k) = false := fun k hk => by simp; omega
    simp [herr, hne]

/-- Settles O16: the flags are cleared in the state, and so in STATUS. -/
theorem clrErrClearsErrorBits : Obligations.ClrErrClearsErrorBits :=
  ⟨fun s => ⟨clearFlags s, exec_clrErr s, status_clearFlags s, rfl⟩, malformedOnlyRaises .clrErr⟩

/-! ### SET_RATE (R295 to R297) -/

theorem admittedRate_eq_false_iff {u : BitVec 32} :
    admittedRate u = false ↔ u.toNat < 8000 ∨ 192000 < u.toNat := by
  rw [Bool.eq_false_iff, ne_eq, admittedRate_iff]
  omega

theorem exec_setRate_of_refused {u : BitVec 32} (hu : admittedRate u = false) (s : State) :
    exec (.setRate u) s = .next { s with errRange := true } := by
  simp [exec, execSetRate, hu, raiseError, setFlag]

theorem exec_setRate_of_current {s : State} (hu : admittedRate s.sr = true) (hc : s.cfg = true) :
    exec (.setRate s.sr) s = .next s := by
  simp [exec, execSetRate, hu, hc]

/-- An admitted rate that is new, or the first, builds the units (R295). -/
theorem exec_setRate_of_new {u : BitVec 32} {s : State} (hu : admittedRate u = true) (hnew : s.cfg = false ∨ u ≠ s.sr) :
    exec (.setRate u) s = .next (construct actual u s) := by
  have hcur : ¬ (s.cfg = true ∧ u = s.sr) := by
    rintro ⟨hc, hsr⟩
    rcases hnew with hc' | hne
    · simp [hc] at hc'
    · exact hne hsr
  simp [exec, execSetRate, hu, hcur]

/-- Settles O11: the check of the rate stands before everything else. -/
theorem rateOutsideRangeOnlyRaises : Obligations.RateOutsideRangeOnlyRaises := fun _ s hout =>
  exec_setRate_of_refused (admittedRate_eq_false_iff.2 hout) s

theorem construct_voice (c : Config) (u : BitVec 32) (s : State) (i : Fin 8) :
    (construct c u s).voices[i] = builtVoice c (rateF32 u) := by simp

theorem construct_comb (c : Config) (u : BitVec 32) (s : State) (k : Fin 4) :
    (construct c u s).combs[k] = builtComb combMs[k] (rateF32 u) := by simp

theorem construct_ap (c : Config) (u : BitVec 32) (s : State) (a : Fin 2) :
    (construct c u s).aps[a] = builtAllpass apMs[a] (rateF32 u) := by simp

/-- Settles O42: the outcome is the construction, each unit of which has the values of its own `built` definition. -/
theorem setRateConstructs : Obligations.SetRateConstructs := by
  refine ⟨fun u s hmin hmax hnew => ?_, fun s hc hmin hmax => ?_, rateOutsideRangeOnlyRaises,
    malformedOnlyRaises .setRate⟩
  · exact ⟨construct actual u s, exec_setRate_of_new (admittedRate_iff.2 ⟨hmin, hmax⟩) hnew, rfl,
      construct_voice actual u s, rfl, construct_comb actual u s, construct_ap actual u s, rfl⟩
  · exact exec_setRate_of_current (admittedRate_iff.2 ⟨hmin, hmax⟩) hc

/-- A construction reads nothing of the state but the error flags and the port (R295). -/
theorem construct_eq_of_flags_of_stream (c : Config) (u : BitVec 32) {s s' : State}
    (hillegal : s.errIllegal = s'.errIllegal) (huncfg : s.errUncfg = s'.errUncfg) (hrange : s.errRange = s'.errRange)
    (hnan : s.errNan = s'.errNan) (hstream : s.stream = s'.stream) : construct c u s = construct c u s' := by
  simp only [construct, hillegal, huncfg, hrange, hnan, hstream]

/-- Settles O43: both blocks answer their construction. -/
theorem constructionForgetsUnits : Obligations.ConstructionForgetsUnits := by
  intro s s' u hu hnew hnew' hillegal huncfg hrange hnan hstream
  rw [exec_setRate_of_new hu hnew, exec_setRate_of_new hu hnew',
    construct_eq_of_flags_of_stream actual u hillegal huncfg hrange hnan hstream]

/-! ### SAMPLE (R291) -/

theorem exec_sample (s : State) :
    exec .sample s =
      withUnits s fun s => if linesInRange s then .next (sampleFrame actual s) else .fault .delayLineIndex := rfl

theorem exec_sample_of_inside {s : State} (hc : s.cfg = true) (h : linesInRange s = true) :
    exec .sample s = .next (sampleFrame actual s) := by
  rw [exec_sample, withUnits_of_cfg hc, if_pos h]

theorem exec_sample_of_not_cfg {s : State} (hc : s.cfg = false) :
    exec .sample s = .next { s with errUncfg := true } := by
  rw [exec_sample, withUnits_of_not_cfg hc]

/-- Settles O46: the outcome is the frame; its sum over the voices is the one written out. -/
theorem sampleProducesFrame : Obligations.SampleProducesFrame := by
  refine ⟨fun s hc hcombs haps => ?_, fun s => exec_sample_of_not_cfg, malformedOnlyRaises .sample⟩
  exact ⟨sampleFrame actual s, exec_sample_of_inside hc (linesInRange_iff.2 ⟨hcombs, haps⟩), rfl,
    sampleFrame_voice actual s, sampleFrame_comb actual s, rfl, rfl⟩

end Sys2Proof.Machine
end

section
/-! Silence (spec/45_chain_and_system.md R292). A +0.0 times a finite factor whose sign is clear is +0.0, and so is a
sum of +0.0s: each unit at rest passes +0.0 on and stays at rest. -/

namespace Sys2Proof.Machine

/-! ### Arithmetic of +0.0 (R14) -/

theorem nonNegFinite_iff {x : F32} : nonNegFinite x = true ↔ isFinite x = true ∧ fsign x = false := by
  simp [nonNegFinite]

theorem f0_fields : isFinite f0 = true ∧ fsign f0 = false ∧ funits f0 = 0 := by decide

theorem fround_zero_units : fround false 0 unitsPerOne = f0 := by decide

@[simp] theorem fadd_f0_f0 : fadd f0 f0 = f0 := by decide

/-- The sum of the two zeros is +0.0. -/
theorem fadd_fneg_f0_f0 : fadd (fneg f0) f0 = f0 := by decide

theorem fmul_f0_of_nonNeg {x : F32} (h : nonNegFinite x = true) : fmul f0 x = f0 := by
  obtain ⟨hfin, hsign⟩ := nonNegFinite_iff.1 h
  obtain ⟨fin0, sign0, units0⟩ := f0_fields
  rw [fmul_of_nonneg fin0 hfin sign0 hsign, units0, Nat.zero_mul, fround_zero_units]

theorem fmul_of_nonNeg_f0 {x : F32} (h : nonNegFinite x = true) : fmul x f0 = f0 := by
  obtain ⟨hfin, hsign⟩ := nonNegFinite_iff.1 h
  obtain ⟨fin0, sign0, units0⟩ := f0_fields
  rw [fmul_of_nonneg hfin fin0 hsign sign0, units0, Nat.mul_zero, fround_zero_units]

/-- A −0.0 keeps its sign under a factor whose sign is clear. -/
theorem fmul_fneg_f0_of_nonNeg {x : F32} (h : nonNegFinite x = true) : fmul (fneg f0) x = fneg f0 := by
  obtain ⟨hfin, hsign⟩ := nonNegFinite_iff.1 h
  obtain ⟨fin0, sign0, units0⟩ := f0_fields
  have hunits : funits (fneg f0) = 0 := by rw [funits_congr (fmag_fneg f0), units0]
  have hmul : fmul (fneg f0) x = fround true 0 unitsPerOne := by
    simp [fmul, isNaN_of_isFinite, isInf_of_isFinite, fin0, hfin, hsign, sign0, hunits]
  rw [hmul]
  decide

/-- The complement of a weight is finite and not negative: what is rounded is at most 1.0, and the exact 0 at 1.0 is
+0.0. -/
theorem nonNegFinite_fsub_f1 {x : F32} (h : nonNegFinite x = true) (hle : fle x f1 = true) :
    nonNegFinite (fsub f1 x) = true := by
  obtain ⟨hfin, hsign⟩ := nonNegFinite_iff.1 h
  have h1 : isFinite f1 = true ∧ fsign f1 = false := by decide
  obtain ⟨fin1, sign1⟩ := h1
  have hint : fint x ≤ fint f1 := (fle_iff_fint hfin fin1).1 hle
  refine nonNegFinite_iff.2 ⟨?_, fsign_fsub_of_le fin1 hfin sign1 hint⟩
  rw [fsub_of_finite fin1 hfin, addFinite]
  split_ifs
  · exact isFinite_of_fmag_eq_zero (fmag_fpack _ (by decide))
  · refine (fround_le_of_representable _ Nat.one_pos (representable_two_pow (e := 149) (by decide)) ?_).1
    rw [fint_f1, fint_of_fsign hsign] at hint
    rw [fint_f1, fint_fneg, fint_of_fsign hsign, Nat.mul_one]
    change _ ≤ unitsPerOne
    omega

/-! ### A comb and an allpass at rest (R224, R225) -/

/-- A comb of `Silent`: a blank line and store, and weights that are finite and not negative. -/
def SilentComb (k : Comb) : Prop :=
  k.buf = [] ∧ k.store = f0 ∧ nonNegFinite k.feedback = true ∧ nonNegFinite k.damp = true ∧ fle k.damp f1 = true

/-- An allpass of `Silent`: a blank line, and a weight that is finite and not negative. -/
def SilentAllpass (a : Allpass) : Prop := a.buf = [] ∧ nonNegFinite a.feedback = true

theorem memWrite_nil_blank (a : Nat) : memWrite [] a f0 = [] := rfl

theorem SilentComb.combStore {k : Comb} (h : SilentComb k) : combStore k = f0 := by
  obtain ⟨hbuf, hstore, -, hdamp, hle⟩ := h
  rw [Machine.combStore, hbuf, memRead_nil, hstore, fmul_f0_of_nonNeg (nonNegFinite_fsub_f1 hdamp hle),
    fmul_f0_of_nonNeg hdamp, fadd_f0_f0]

theorem SilentComb.output {k : Comb} (h : SilentComb k) (x : F32) : (combProcess k x).2 = f0 := by
  obtain ⟨hbuf, -⟩ := h
  rw [combProcess, hbuf, memRead_nil]

theorem SilentComb.combProcess {k : Comb} (h : SilentComb k) : SilentComb (combProcess k f0).1 := by
  have hstore := h.combStore
  obtain ⟨hbuf, -, hfeedback, hdamp, hle⟩ := h
  refine ⟨?_, hstore, hfeedback, hdamp, hle⟩
  rw [Machine.combProcess, hstore, fmul_f0_of_nonNeg hfeedback, fadd_f0_f0, hbuf, memWrite_nil_blank]

theorem SilentAllpass.output {a : Allpass} (h : SilentAllpass a) : (allpassProcess a f0).2 = f0 := by
  obtain ⟨hbuf, hfeedback⟩ := h
  rw [Machine.allpassProcess, hbuf, memRead_nil, fmul_fneg_f0_of_nonNeg hfeedback, fadd_fneg_f0_f0]

theorem SilentAllpass.allpassProcess {a : Allpass} (h : SilentAllpass a) : SilentAllpass (allpassProcess a f0).1 := by
  obtain ⟨hbuf, hfeedback⟩ := h
  refine ⟨?_, hfeedback⟩
  rw [Machine.allpassProcess, hbuf, memRead_nil, fmul_f0_of_nonNeg hfeedback, fadd_f0_f0, memWrite_nil_blank]

/-! ### The reverb at rest (R226) -/

section
variable {combs : Vector Comb 4} {aps : Vector Allpass 2} (hcombs : ∀ k : Fin 4, SilentComb combs[k])
  (haps : ∀ a : Fin 2, SilentAllpass aps[a])
include hcombs

theorem combMean_of_silent (x : F32) : combMean combs x = f0 := by
  have hout0 : (combProcess combs[0] x).2 = f0 := (hcombs 0).output x
  have hout1 : (combProcess combs[1] x).2 = f0 := (hcombs 1).output x
  have hout2 : (combProcess combs[2] x).2 = f0 := (hcombs 2).output x
  have hout3 : (combProcess combs[3] x).2 = f0 := (hcombs 3).output x
  rw [combMean, hout0, hout1, hout2, hout3, fadd_f0_f0]
  decide

include haps

theorem firstAllpassOut_of_silent (x : F32) : firstAllpassOut combs aps x = f0 := by
  rw [firstAllpassOut, combMean_of_silent hcombs]
  exact (haps 0).output

theorem secondAllpassOut_of_silent (x : F32) : secondAllpassOut combs aps x = f0 := by
  rw [secondAllpassOut, firstAllpassOut_of_silent hcombs haps]
  exact (haps 1).output

theorem reverbOut_of_silent {rv : ReverbRegs} (hwet : nonNegFinite rv.wet = true)
    (hdry : nonNegFinite rv.dry = true) : reverbOut rv combs aps f0 = f0 := by
  rw [reverbOut, secondAllpassOut_of_silent hcombs haps, fmul_of_nonNeg_f0 hwet, fmul_of_nonNeg_f0 hdry, fadd_f0_f0]

theorem apsAfter_of_silent (x : F32) (a : Fin 2) : SilentAllpass (apsAfter combs aps x)[a] := by
  match a with
  | 0 =>
    change SilentAllpass (allpassProcess aps[0] (combMean combs x)).1
    rw [combMean_of_silent hcombs]
    exact (haps 0).allpassProcess
  | 1 =>
    change SilentAllpass (allpassProcess aps[1] (firstAllpassOut combs aps x)).1
    rw [firstAllpassOut_of_silent hcombs haps]
    exact (haps 1).allpassProcess

end

/-! ### The limiter at rest (R266) -/

/-- The limiter of `Silent`: a follower at rest below the threshold. -/
def SilentLimiter (lim : LimiterRegs) : Prop :=
  lim.env = f0 ∧ flt f0 lim.threshLin = true ∧ nonNegFinite lim.makeupLin = true ∧
    nonNegFinite lim.releaseCoef = true ∧ fle lim.releaseCoef f1 = true

theorem SilentLimiter.followEnv {lim : LimiterRegs} (h : SilentLimiter lim) : followEnv lim f0 = f0 := by
  obtain ⟨henv, -, -, hcoef, hle⟩ := h
  have hrest : fabs f0 = f0 ∧ fgt f0 f0 = false := by decide
  obtain ⟨habs, hgt⟩ := hrest
  have hrelease : followCoef lim f0 = lim.releaseCoef := by simp [followCoef, henv, habs, hgt]
  rw [Machine.followEnv, hrelease, henv, habs, fmul_of_nonNeg_f0 hcoef,
    fmul_of_nonNeg_f0 (nonNegFinite_fsub_f1 hcoef hle), fadd_f0_f0]

theorem SilentLimiter.limiterAfter {lim : LimiterRegs} (h : SilentLimiter lim) :
    SilentLimiter (limiterAfter lim f0) := by
  have hfollow := h.followEnv
  obtain ⟨-, hrest⟩ := h
  exact ⟨hfollow, hrest⟩

/-- Silence does not cross a threshold above +0.0, so that the makeup gain is all that acts. -/
theorem SilentLimiter.output {lim : LimiterRegs} (h : SilentLimiter lim) : limiterOut lim f0 = f0 := by
  have hfollow := h.followEnv
  obtain ⟨-, hthresh, hmakeup, -⟩ := h
  have hbelow : fgt (Machine.followEnv lim f0) lim.threshLin = false := by
    rw [hfollow]
    simp only [fgt, flt, Bool.and_eq_true, decide_eq_true_eq] at hthresh ⊢
    obtain ⟨-, hlt⟩ := hthresh
    rw [decide_eq_false hlt.not_gt, Bool.and_false]
  rw [belowThresholdOnlyMakeup lim f0 (by decide) hbelow, fmul_f0_of_nonNeg hmakeup]

/-! ### The frame at rest (R291, R292) -/

/-- A voice of `Silent`: it does not run. -/
def SilentVoice (v : Voice) : Prop := v.active = false ∧ v.env.state = .idle

theorem SilentVoice.voiceProcess {v : Voice} (h : SilentVoice v) (c : Config) (srF : F32) (i : Fin 8) :
    voiceProcess c srF i v = (v, f0) := by
  obtain ⟨hactive, hidle⟩ := h
  obtain ⟨hgate, -⟩ := voiceGating c srF i v
  exact hgate hactive hidle

theorem voiceSum_of_silent {s : State} (h : ∀ i : Fin 8, SilentVoice s.voices[i]) (c : Config) : voiceSum c s = f0 := by
  have hout : ∀ i : Fin 8, (frameVoice c s i).2 = f0 := fun i => by rw [frameVoice, (h i).voiceProcess]
  simp [voiceSum, voiceIndices, hout]

/-- `Silent` is its units at rest. -/
theorem silent_iff {s : State} :
    Silent s ↔ s.cfg = true ∧ linesInRange s = true ∧ (∀ i : Fin 8, SilentVoice s.voices[i]) ∧
      (∀ k : Fin 4, SilentComb s.combs[k]) ∧ (∀ a : Fin 2, SilentAllpass s.aps[a]) ∧
      nonNegFinite s.rv.wet = true ∧ nonNegFinite s.rv.dry = true ∧ SilentLimiter s.lim := Iff.rfl

/-- A frame moves each index around its line (R82). -/
theorem linesInRange_sampleFrame {s : State} (h : linesInRange s = true) (c : Config) :
    linesInRange (sampleFrame c s) = true := by
  obtain ⟨hcombs, haps⟩ := linesInRange_iff.1 h
  refine linesInRange_iff.2 ⟨fun k => ?_, fun a => ?_⟩
  · rw [sampleFrame_comb]
    exact Nat.mod_lt _ (Nat.zero_lt_of_lt (hcombs k))
  · obtain ⟨y, hy⟩ := sampleFrame_ap c s a
    rw [hy]
    exact Nat.mod_lt _ (Nat.zero_lt_of_lt (haps a))

theorem Silent.frameReverb {s : State} (h : Silent s) (c : Config) : frameReverb c s = f0 := by
  obtain ⟨-, -, hvoices, hcombs, haps, hwet, hdry, -⟩ := silent_iff.1 h
  rw [Machine.frameReverb, voiceSum_of_silent hvoices, reverbOut_of_silent hcombs haps hwet hdry]

theorem Silent.sampleFrame {s : State} (h : Silent s) (c : Config) : Silent (sampleFrame c s) := by
  have hreverb := h.frameReverb c
  obtain ⟨hc, hlines, hvoices, hcombs, haps, hwet, hdry, hlim⟩ := silent_iff.1 h
  have hsum := voiceSum_of_silent hvoices c
  refine silent_iff.2 ⟨by rw [sampleFrame_cfg, hc], linesInRange_sampleFrame hlines c, fun i => ?_, fun k => ?_, ?_,
    by rw [sampleFrame_rv, hwet], by rw [sampleFrame_rv, hdry], ?_⟩
  · rw [sampleFrame_voice, (hvoices i).voiceProcess]
    exact hvoices i
  · rw [sampleFrame_comb, hsum]
    exact (hcombs k).combProcess
  · rw [sampleFrame_aps]
    exact apsAfter_of_silent hcombs haps _
  · rw [sampleFrame_lim, hreverb]
    exact hlim.limiterAfter

/-- Settles O48: the limiter gets +0.0 from the reverb and answers it, and every unit is at rest after the frame. -/
theorem silenceStaysSilent : Obligations.SilenceStaysSilent := by
  intro s h
  obtain ⟨hc, hlines, -, -, -, -, -, hlim⟩ := silent_iff.1 h
  exact ⟨sampleFrame actual s, exec_sample_of_inside hc hlines,
    by rw [sampleFrame_out, h.frameReverb, hlim.output], h.sampleFrame actual⟩

end Sys2Proof.Machine
end

section
/-! The errors (spec/60_exceptions.md): the checks in their order, what a step can do to the flags, that no word stops
the block, and a host that plays on a block without units. -/

namespace Sys2Proof.Machine

/-! ### The checks in their order (R313, R314) -/

theorem needsCfg_eq_false_iff (op : Op) : op.needsCfg = false ↔ op = .nop ∨ op = .clrErr ∨ op = .setRate := by
  cases op with
  | nop | clrErr | setRate => simp [Op.needsCfg]
  | noteOn | noteOff | setRoom | setDamp | setWet | setDry | setWidth => simp [Op.needsCfg]
  | setThresh | setAttack | setRelease | setMakeup | sample => simp [Op.needsCfg]

/-- A command that needs the units begins with the check of CFG (R110). -/
theorem exec_of_needsCfg {i : Instr} (hi : i.op.needsCfg = true) : ∃ run, ∀ s, exec i s = withUnits s run := by
  cases i with
  | nop | setRate | clrErr => cases hi
  | noteOn | noteOff | sample => exact ⟨_, fun _ => rfl⟩
  | setRoom | setDamp | setWet | setDry | setWidth => exact ⟨_, fun _ => rfl⟩
  | setThresh | setAttack | setRelease | setMakeup => exact ⟨_, fun _ => rfl⟩

theorem exec_of_not_cfg {i : Instr} {s : State} (hi : i.op.needsCfg = true) (hc : s.cfg = false) :
    exec i s = .next { s with errUncfg := true } := by
  obtain ⟨run, hexec⟩ := exec_of_needsCfg hi
  rw [hexec, withUnits_of_not_cfg hc]

theorem execSetRate_keeps_errUncfg {u : BitVec 32} {s t : State} (h : execSetRate u s = .next t) :
    t.errUncfg = s.errUncfg := by
  rcases execSetRate_next h with ⟨-, rfl⟩ | ⟨-, -, -, rfl⟩ | ⟨-, -, rfl⟩
  · exact setFlag_range_errUncfg s
  · rfl
  · exact construct_errUncfg actual u s

/-- Settles O9: the check of CFG is the first thing such a command does, and the three others have no such check. -/
theorem commandsWithoutUnitsOnlyRaise : Obligations.CommandsWithoutUnitsOnlyRaise := by
  refine ⟨fun i s => exec_of_not_cfg, fun i s t hi h ht => ?_, needsCfg_eq_false_iff⟩
  cases i with
  | nop => exact Host.Outcome.next.inj h ▸ ht
  | clrErr =>
    obtain rfl := Host.Outcome.next.inj h
    cases ht
  | setRate u => exact execSetRate_keeps_errUncfg h ▸ ht
  | noteOn | noteOff | sample => cases hi
  | setRoom | setDamp | setWet | setDry | setWidth => cases hi
  | setThresh | setAttack | setRelease | setMakeup => cases hi

/-- Settles O12: each check is met where the checks before it let the word pass. -/
theorem errorPriority : Obligations.ErrorPriority := by
  refine fun w s => ⟨fun e hdec => runWord_of_error hdec s, fun i hdec hi hc => ?_, fun i f hdec hc hop hn => ?_,
    fun u hdec hout => ?_⟩
  · rw [runWord_of_ok hdec]
    exact exec_of_not_cfg hi hc
  · rw [runWord_of_ok hdec]
    exact exec_setter_of_nan hop hc hn
  · rw [runWord_of_ok hdec]
    exact rateOutsideRangeOnlyRaises u s hout

/-! ### What a step can do to the flags (R311, R312) -/

/-- The four error flags are those of `s`. -/
def SameFlags (s t : State) : Prop := ∀ e, getFlag e t = getFlag e s

theorem sameFlags_of_fields {s t : State} (hillegal : t.errIllegal = s.errIllegal) (huncfg : t.errUncfg = s.errUncfg)
    (hrange : t.errRange = s.errRange) (hnan : t.errNan = s.errNan) : SameFlags s t := fun e =>
  match e with
  | .illegal => hillegal
  | .uncfg => huncfg
  | .range => hrange
  | .nan => hnan

theorem sameFlags_stream (s : State) (rest : List Word) : SameFlags s { s with stream := rest } :=
  sameFlags_of_fields rfl rfl rfl rfl

/-- A command raises one error and does nothing else, or is CLR_ERR, or leaves all four flags. -/
theorem exec_next_flags {i : Instr} {s t : State} (h : exec i s = .next t) :
    (∃ e, t = setFlag e s) ∨ (i = .clrErr ∧ t = clearFlags s) ∨ SameFlags s t := by
  rcases exec_next h with hraise | rfl | hclear | ⟨u, -, -, rfl⟩ | ⟨-, hunits⟩
  · exact .inl hraise
  · exact .inr (.inr fun _ => rfl)
  · exact .inr (.inl hclear)
  · exact .inr (.inr (sameFlags_of_fields rfl rfl rfl rfl))
  · refine .inr (.inr ?_)
    rcases hunits with ⟨-, n, v, -, rfl⟩ | ⟨-, n, -, -, rfl⟩ | ⟨-, -, rfl⟩ | ⟨f, -, -, hset⟩
    · exact sameFlags_of_fields rfl rfl rfl rfl
    · exact sameFlags_of_fields rfl rfl rfl rfl
    · exact sameFlags_of_fields rfl rfl rfl rfl
    · rcases hset with rfl | rfl | ⟨w, d, x, rfl, -⟩ | rfl | rfl | rfl | rfl <;>
        exact sameFlags_of_fields rfl rfl rfl rfl

/-- A step raises one error and does nothing else but take the word, or runs a CLR_ERR, or leaves all four flags. -/
theorem step_next_flags {s t : State} (h : step s = .next t) :
    (∃ e, t = setFlag e { s with stream := s.stream.tail }) ∨
      (∃ w rest, s.stream = w :: rest ∧ decode w = .ok .clrErr ∧ ∀ e, getFlag e t = false) ∨ SameFlags s t := by
  rcases step_next h with ⟨-, rfl⟩ | ⟨w, rest, i, hs, hdec, hexec⟩ | ⟨w, rest, -, hs, -, rfl⟩
  · exact .inr (.inr fun _ => rfl)
  · rcases exec_next_flags hexec with ⟨e, rfl⟩ | ⟨rfl, rfl⟩ | hsame
    · exact .inl ⟨e, by rw [hs, List.tail_cons]⟩
    · exact .inr (.inl ⟨w, rest, hs, hdec, fun e => getFlag_clearFlags e _⟩)
    · exact .inr (.inr fun e => (hsame e).trans (sameFlags_stream s rest e))
  · exact .inl ⟨.illegal, by rw [hs, List.tail_cons]⟩

/-- Settles O13: of the three things a step can do only raising that very error sets its flag. -/
theorem raisedErrorChangesNothingElse : Obligations.RaisedErrorChangesNothingElse := by
  intro s t e h hclear hset
  rcases step_next_flags h with ⟨e', rfl⟩ | ⟨-, -, -, -, hzero⟩ | hsame
  · by_cases he : e = e'
    · rw [he]
    · have htaken : getFlag e { s with stream := s.stream.tail } = false :=
        (sameFlags_stream s _ e).trans hclear
      simp [getFlag_setFlag_other he, htaken] at hset
  · simp [hzero] at hset
  · simp [hsame e, hclear] at hset

/-- Raising an error clears no flag (R312). -/
theorem getFlag_setFlag_of_set {e : BlockError} {s : State} (h : getFlag e s = true) (e' : BlockError) :
    getFlag e (setFlag e' s) = true := by
  by_cases he : e = e'
  · rw [he, getFlag_setFlag_same]
  · rw [getFlag_setFlag_other he, h]

/-- Settles O14: of the three things a step can do only CLR_ERR clears a flag. -/
theorem errorFlagsAreSticky : Obligations.ErrorFlagsAreSticky := by
  intro s t e h hset
  rcases step_next_flags h with ⟨e', rfl⟩ | ⟨w, rest, hs, hdec, -⟩ | hsame
  · exact .inl (getFlag_setFlag_of_set ((sameFlags_stream s _ e).trans hset) e')
  · exact .inr ⟨w, rest, hs, hdec⟩
  · exact .inl ((hsame e).trans hset)

/-! ### Nothing stops the block (R310) -/

/-- The check of CFG stops nothing that the command's rule does not stop. -/
theorem withUnits_total {s : State} {run : State → Result} (h : ∃ t, run s = .next t) :
    ∃ t, withUnits s run = .next t := by
  cases hc : s.cfg with
  | true => exact (withUnits_of_cfg hc run).symm ▸ h
  | false => exact ⟨_, withUnits_of_not_cfg hc run⟩

theorem exec_setter_total {i : Instr} {f : F32} (h : setterOperand i = some f) (s : State) :
    ∃ t, exec i s = .next t := by
  obtain ⟨run, _, hexec, _⟩ := exec_setter h
  rw [hexec]
  exact withF32_total f s run

theorem exec_setRate_total (u : BitVec 32) (s : State) : ∃ t, exec (.setRate u) s = .next t := by
  cases hu : admittedRate u with
  | false => exact ⟨_, exec_setRate_of_refused hu s⟩
  | true =>
    by_cases hcur : s.cfg = true ∧ u = s.sr
    · obtain ⟨hc, rfl⟩ := hcur
      exact ⟨s, exec_setRate_of_current hu hc⟩
    · exact ⟨_, exec_setRate_of_new hu (by simpa [imp_iff_not_or] using hcur)⟩

/-- With every index inside its line each command answers a next state (R82, R310). -/
theorem exec_total {s : State} (hlines : linesInRange s = true) (i : Instr) : ∃ t, exec i s = .next t := by
  cases i with
  | nop => exact ⟨s, exec_nop s⟩
  | clrErr => exact ⟨_, exec_clrErr s⟩
  | setRate u => exact exec_setRate_total u s
  | noteOn ch n vel =>
    rw [exec_noteOn]
    exact withUnits_total ⟨_, rfl⟩
  | noteOff ch n vel =>
    rw [exec_noteOff]
    exact withUnits_total ⟨_, rfl⟩
  | sample =>
    rw [exec_sample]
    exact withUnits_total ⟨_, if_pos hlines⟩
  | setRoom | setDamp | setWet | setDry | setWidth => exact exec_setter_total rfl s
  | setThresh | setAttack | setRelease | setMakeup => exact exec_setter_total rfl s

theorem LinesOk.linesInRange {s : State} (h : LinesOk s) : linesInRange s = true := by
  obtain ⟨hcombs, haps⟩ := h
  exact linesInRange_iff.2 ⟨fun k => (lineOk_iff.1 (hcombs k)).1, fun a => (lineOk_iff.1 (haps a)).1⟩

/-- Settles O55: taking the word moves no line, and then a command or ErrIllegal answers. -/
theorem noWordStopsTheBlock : Obligations.NoWordStopsTheBlock := by
  intro s h
  cases hs : s.stream with
  | nil => exact ⟨s, step_of_nil hs⟩
  | cons w rest =>
    rw [step_of_cons hs]
    cases hdec : decode w with
    | error e => exact ⟨_, runWord_of_error hdec _⟩
    | ok i =>
      rw [runWord_of_ok hdec]
      exact exec_total (LinesOk.linesInRange (s := { s with stream := rest }) h) i

/-! ### A host that plays without units (R331) -/

/-- A word presented to an empty port is run at once (R330). -/
theorem sendWord_of_empty {s : State} (hs : s.stream = []) (w : Word) : sendWord w s = runWord w s := by
  have hpresented : (presentWord w s).stream = w :: [] := by rw [presentWord_stream, hs, List.nil_append]
  have htaken : { presentWord w s with stream := [] } = s := by rw [← hs]; rfl
  rw [sendWord, step_of_cons hpresented, htaken]

theorem sendWord_encode_of_empty {s : State} (hs : s.stream = []) (i : Instr) : sendWord (encode i) s = exec i s := by
  rw [sendWord_of_empty hs, runWord_of_ok (decodeAfterEncode i)]

theorem sendWords_cons {i : Instr} {s t : State} (h : sendWord (encode i) s = .next t) (is : List Instr) :
    sendWords (commandWords (i :: is)) s = sendWords (commandWords is) t := by
  rw [commandWords, List.map_cons, sendWords, h, commandWords]

/-- The state with ERR_UNCFG set if `b`. -/
def State.orUncfg (s : State) (b : Bool) : State := { s with errUncfg := s.errUncfg || b }

@[simp] theorem orUncfg_cfg (s : State) (b : Bool) : (s.orUncfg b).cfg = s.cfg := rfl
@[simp] theorem orUncfg_out (s : State) (b : Bool) : (s.orUncfg b).out = s.out := rfl
@[simp] theorem orUncfg_stream (s : State) (b : Bool) : (s.orUncfg b).stream = s.stream := rfl

@[simp] theorem orUncfg_false (s : State) : s.orUncfg false = s := by simp [State.orUncfg]

@[simp] theorem orUncfg_orUncfg (s : State) (b b' : Bool) : (s.orUncfg b).orUncfg b' = s.orUncfg (b || b') := by
  simp [State.orUncfg, Bool.or_assoc]

theorem sendWord_without_units {s : State} {i : Instr} (hi : i.op.needsCfg = true) (hc : s.cfg = false)
    (hs : s.stream = []) : sendWord (encode i) s = .next (s.orUncfg true) := by
  rw [sendWord_encode_of_empty hs, exec_of_not_cfg hi hc, State.orUncfg, Bool.or_true]

/-- Commands that need the units, sent while there are none, raise ErrUncfg if there is one of them (R313). -/
theorem sendWords_without_units {is : List Instr} (his : ∀ i ∈ is, i.op.needsCfg = true) {s : State}
    (hc : s.cfg = false) (hs : s.stream = []) :
    sendWords (commandWords is) s = some (s.orUncfg (!is.isEmpty)) := by
  induction is generalizing s with
  | nil => simp [commandWords, sendWords]
  | cons i is ih =>
    obtain ⟨hi, his⟩ := List.forall_mem_cons.1 his
    have hrest : sendWords (commandWords is) (s.orUncfg true) = some ((s.orUncfg true).orUncfg (!is.isEmpty)) :=
      ih his hc hs
    rw [sendWords_cons (sendWord_without_units hi hc hs), hrest]
    simp

/-- Frames without units raise ErrUncfg if there is one, and copy the OUT that stays (R313, R331). -/
theorem playFrames_without_units (channels frames : Nat) {s : State} (hc : s.cfg = false) (hout : s.out = f0)
    (hs : s.stream = []) :
    playFrames channels frames s =
      some (s.orUncfg (decide (0 < frames)), List.replicate (frames * channels) f0) := by
  induction frames generalizing s with
  | zero => simp [playFrames]
  | succ n ih =>
    have hrest : playFrames channels n (s.orUncfg true) =
        some ((s.orUncfg true).orUncfg (decide (0 < n)), List.replicate (n * channels) f0) := ih hc hout hs
    have hframe : sendWord (encode .sample) s = .next (s.orUncfg true) := sendWord_without_units rfl hc hs
    simp [playFrames, hframe, hrest, readOut, hout, Nat.succ_mul, Nat.add_comm]

theorem eventCommand_needsCfg (e : NoteEvent) : (eventCommand e).op.needsCfg = true := by
  cases e <;> rfl

/-- Settles O58: the refused rate raises ErrRange, and what the host sends after it needs the units. -/
theorem playWithoutRateIsZeros : Obligations.PlayWithoutRateIsZeros := by
  intro u events channels frames s hout hc hzero hs
  have hrate : sendWord (encode (.setRate u)) s = .next { s with errRange := true } := by
    rw [sendWord_encode_of_empty hs, rateOutsideRangeOnlyRaises u s hout]
  have hevents : ∀ i ∈ events.map eventCommand, i.op.needsCfg = true := by simp [eventCommand_needsCfg]
  have hsent := (sendWords_cons hrate _).trans (sendWords_without_units hevents hc hs)
  calc play u events channels frames s
      = playFrames channels frames
          (State.orUncfg { s with errRange := true } (!(events.map eventCommand).isEmpty)) := by rw [play, hsent]
    _ = _ := playFrames_without_units channels frames hc hzero hs
    _ = _ := by simp [State.orUncfg]

end Sys2Proof.Machine
end

section
/-! Power-on (spec/70_reset_and_hazards.md R340): the state it leaves meets every invariant, and no word can tell two
blocks without units apart. -/

namespace Sys2Proof.Machine

/-! ### The units of the power-on state (log 2) -/

theorem reset_cfg : State.reset.cfg = false := rfl

theorem reset_voice (i : Fin 8) : State.reset.voices[i] = Voice.unbuilt := by simp [State.reset]

theorem reset_comb (k : Fin 4) : State.reset.combs[k] = Comb.unbuilt := by simp [State.reset]

theorem reset_ap (a : Fin 2) : State.reset.aps[a] = Allpass.unbuilt := by simp [State.reset]

theorem linesOk_reset : LinesOk State.reset := by
  refine ⟨fun k => ?_, fun a => ?_⟩
  · rw [reset_comb]; rfl
  · rw [reset_ap]; rfl

theorem voicesOk_reset : VoicesOk State.reset := fun i => by rw [reset_voice]; rfl

theorem powerOnOk_reset : PowerOnOk State.reset := fun _ => ⟨rfl, rfl, rfl, fun i => by rw [reset_voice]; rfl⟩

theorem accumulatorsOk_reset : AccumulatorsOk State.reset := by
  intro i
  rw [reset_voice]
  decide

/-- Settles O49: six of the invariants speak of units that are built, and the others hold of the unbuilt values. -/
theorem resetMeetsInvariants : Obligations.ResetMeetsInvariants := by
  have hunbuilt {P : Prop} (hc : State.reset.cfg = true) : P := absurd hc (by simp [reset_cfg])
  exact ⟨linesOk_reset, voicesOk_reset, powerOnOk_reset, hunbuilt, hunbuilt, hunbuilt, hunbuilt, hunbuilt, hunbuilt,
    accumulatorsOk_reset⟩

/-! ### What the ports show of a block without units (R34, R48) -/

theorem status_of_not_cfg {s : State} (hc : s.cfg = false) :
    status s = statusBit s.errIllegal 1 ||| statusBit s.errUncfg 2 ||| statusBit s.errRange 3 |||
      statusBit s.errNan 4 := by
  have hoff : ∀ i, statusBit false i = 0#32 := fun i => by simp [statusBit]
  simp [status, activeField, hc, hoff]

/-- Two blocks are equal where they are built, and differ in their units only where they are not (R340). -/
def EqUnlessUnbuilt (t t' : State) : Prop := SameButUnits t t' ∨ (t.cfg = true ∧ t = t')

theorem EqUnlessUnbuilt.ports {t t' : State} (h : EqUnlessUnbuilt t t') :
    readOut t = readOut t' ∧ readStatus t = readStatus t' := by
  rcases h with ⟨hc, hc', -, -, hout, hillegal, huncfg, hrange, hnan, -⟩ | ⟨-, rfl⟩
  · refine ⟨hout, ?_⟩
    rw [readStatus, readStatus, status_of_not_cfg hc, status_of_not_cfg hc', hillegal, huncfg, hrange, hnan]
  · exact ⟨rfl, rfl⟩

/-! ### Effects that do not read the units -/

theorem SameButUnits.setFlag {s s' : State} (h : SameButUnits s s') (e : BlockError) :
    SameButUnits (setFlag e s) (setFlag e s') := by
  obtain ⟨hc, hc', hsr, hsrF, hout, hillegal, huncfg, hrange, hnan, hstream⟩ := h
  cases e with
  | illegal => exact ⟨hc, hc', hsr, hsrF, hout, rfl, huncfg, hrange, hnan, hstream⟩
  | uncfg => exact ⟨hc, hc', hsr, hsrF, hout, hillegal, rfl, hrange, hnan, hstream⟩
  | range => exact ⟨hc, hc', hsr, hsrF, hout, hillegal, huncfg, rfl, hnan, hstream⟩
  | nan => exact ⟨hc, hc', hsr, hsrF, hout, hillegal, huncfg, hrange, rfl, hstream⟩

theorem SameButUnits.clearFlags {s s' : State} (h : SameButUnits s s') :
    SameButUnits (clearFlags s) (clearFlags s') := by
  obtain ⟨hc, hc', hsr, hsrF, hout, -, -, -, -, hstream⟩ := h
  exact ⟨hc, hc', hsr, hsrF, hout, rfl, rfl, rfl, rfl, hstream⟩

theorem SameButUnits.withStream {s s' : State} (h : SameButUnits s s') (rest : List Word) :
    SameButUnits { s with stream := rest } { s' with stream := rest } := by
  obtain ⟨hc, hc', hsr, hsrF, hout, hillegal, huncfg, hrange, hnan, -⟩ := h
  exact ⟨hc, hc', hsr, hsrF, hout, hillegal, huncfg, hrange, hnan, rfl⟩

theorem SameButUnits.construct_eq {s s' : State} (h : SameButUnits s s') (c : Config) (u : BitVec 32) :
    construct c u s = construct c u s' := by
  obtain ⟨-, -, -, -, -, hillegal, huncfg, hrange, hnan, hstream⟩ := h
  exact construct_eq_of_flags_of_stream c u hillegal huncfg hrange hnan hstream

/-- A command that answers two blocks without units alike, whatever their units' registers hold. -/
def UnitsUnread (run : State → Result) : Prop :=
  ∀ s s', SameButUnits s s' → ∃ t t', run s = .next t ∧ run s' = .next t' ∧ EqUnlessUnbuilt t t'

theorem unitsUnread_raiseError (e : BlockError) : UnitsUnread (raiseError e) := fun _ _ h =>
  ⟨_, _, rfl, rfl, .inl (h.setFlag e)⟩

/-- Without units such a command is ErrUncfg alone (R313). -/
theorem unitsUnread_exec_of_needsCfg {i : Instr} (hi : i.op.needsCfg = true) : UnitsUnread (exec i) := by
  intro s s' h
  have ⟨hc, hc', _⟩ := h
  exact ⟨_, _, exec_of_not_cfg hi hc, exec_of_not_cfg hi hc', .inl (h.setFlag .uncfg)⟩

/-- Without units an admitted rate builds them anew, whatever they held (R295). -/
theorem unitsUnread_exec_setRate (u : BitVec 32) : UnitsUnread (exec (.setRate u)) := by
  intro s s' h
  have ⟨hc, hc', _⟩ := h
  cases hu : admittedRate u with
  | false =>
    exact ⟨_, _, exec_setRate_of_refused hu s, exec_setRate_of_refused hu s', .inl (h.setFlag .range)⟩
  | true =>
    exact ⟨_, _, exec_setRate_of_new hu (.inl hc), exec_setRate_of_new hu (.inl hc'),
      .inr ⟨construct_cfg actual u s, h.construct_eq actual u⟩⟩

theorem unitsUnread_exec (i : Instr) : UnitsUnread (exec i) := by
  cases i with
  | nop => exact fun s s' h => ⟨s, s', exec_nop s, exec_nop s', .inl h⟩
  | clrErr => exact fun s s' h => ⟨_, _, exec_clrErr s, exec_clrErr s', .inl h.clearFlags⟩
  | setRate u => exact unitsUnread_exec_setRate u
  | noteOn | noteOff | sample => exact unitsUnread_exec_of_needsCfg rfl
  | setRoom | setDamp | setWet | setDry | setWidth => exact unitsUnread_exec_of_needsCfg rfl
  | setThresh | setAttack | setRelease | setMakeup => exact unitsUnread_exec_of_needsCfg rfl

theorem unitsUnread_runWord (w : Word) : UnitsUnread (runWord w) := by
  cases hdec : decode w with
  | ok i =>
    rw [show runWord w = exec i from funext (runWord_of_ok hdec)]
    exact unitsUnread_exec i
  | error e =>
    rw [show runWord w = raiseError .illegal from funext (runWord_of_error hdec)]
    exact unitsUnread_raiseError .illegal

/-- Both blocks take the same word from the port. -/
theorem unitsUnread_step : UnitsUnread step := by
  intro s s' h
  have ⟨_, _, _, _, _, _, _, _, _, hstream⟩ := h
  cases hs : s.stream with
  | nil => exact ⟨s, s', step_of_nil hs, step_of_nil (hstream ▸ hs), .inl h⟩
  | cons w rest =>
    rw [step_of_cons hs, step_of_cons (hstream ▸ hs)]
    exact unitsUnread_runWord w _ _ (h.withStream rest)

/-- Settles O2: a step does not read the units before they are built, and neither port shows them. -/
theorem powerOnRegistersAndUnobservableUnits : Obligations.PowerOnRegistersAndUnobservableUnits := by
  refine ⟨⟨reset_cfg, rfl, rfl, rfl, status_of_not_cfg reset_cfg⟩, fun s s' t h ht => ?_⟩
  obtain ⟨t₁, t', hs, hs', heq⟩ := unitsUnread_step s s' h
  obtain rfl := Host.Outcome.next.inj (ht.symm.trans hs)
  obtain ⟨hout, hstatus⟩ := heq.ports
  exact ⟨t', hs', hout, hstatus, heq⟩

end Sys2Proof.Machine
end
